-- ==== Sys2Proof/Word.lean ====
section
/-! DEFINITION. The widths of the bus: every register and window word is 32 bits (spec/00_scope.md R7). -/

namespace Sys2Proof

/-- A register or window word, 32 bits, bit 0 least significant (R7). -/
abbrev Word := BitVec 32

/-- One byte lane of a bus word (spec/20_memory.md R83). -/
abbrev Byte := BitVec 8

/-- An exact non-negative integer narrowed to a register word. -/
abbrev toWord (n : Nat) : Word := BitVec.ofNat 32 n

end Sys2Proof
end

