-- ==== Sys2Proof/Machine/Search.lean ====
section
/-! DEFINITION. The bounded searches and sums the rules' loops are written with (spec/00_scope.md R8: a loop over
[a, b) runs in increasing order). -/

namespace Sys2Proof.Machine

/-- The first value `f` gives on `i`, `i + 1`, ... for `fuel` indices. -/
def findSomeFrom {α : Type} (f : Nat → Option α) : Nat → Nat → Option α
  | 0, _ => none
  | fuel + 1, i =>
    match f i with
    | some x => some x
    | none => findSomeFrom f fuel (i + 1)

/-- The value of `f` at the smallest index below `n` where it has one. -/
def firstSome {α : Type} (n : Nat) (f : Nat → Option α) : Option α := findSomeFrom f n 0

/-- The smallest index below `n` with `p`. -/
def firstBelow (n : Nat) (p : Nat → Bool) : Option Nat :=
  firstSome n fun i => if p i then some i else none

/-- `f 0 + ... + f (n - 1)`, exact. -/
def sumBelow (n : Nat) (f : Nat → Nat) : Nat := ((List.range n).map f).sum

/-- Entry `i` of a list of numbers, 0 past its end. -/
def at0 (l : List Nat) (i : Nat) : Nat := l.getD i 0

/-- Entry (`i`, `j`) of a matrix held as a list of rows, 0 outside it. -/
def matAt (m : List (List Nat)) (i j : Nat) : Nat := at0 (m.getD i []) j

/-- The list `[f 0, ..., f (n - 1)]`. -/
def tabulate {α : Type} (n : Nat) (f : Nat → α) : List α := (List.range n).map f

end Sys2Proof.Machine
end

