-- ==== Sys2Proof/Machine/Arith.lean ====
section
/-! DEFINITION. Digit arithmetic in GF(q) (spec/00_scope.md R8), the construction of the element table
(spec/40_field.md R152 to R155) and the element functions (R160 to R168). All arithmetic is exact and reduced at the
end (R180). -/

namespace Sys2Proof.Machine

/-- `a +q b` (R8). -/
def addQ (q a b : Nat) : Nat := (a + b) % q

/-- `a -q b` (R8): the mathematical remainder of the difference. -/
def subQ (q a b : Nat) : Nat := (((a : Int) - (b : Int)) % (q : Int)).toNat

/-- `a *q b` (R8). -/
def mulQ (q a b : Nat) : Nat := (a * b) % q

/-- `negq(a)` (R8). -/
def negQ (q a : Nat) : Nat := ((-(a : Int)) % (q : Int)).toNat

/-- `dinv(a)` (R8): the d in [1, q) with `a *q d = 1`. It is used on a in [1, q) with q prime, where there is one;
elsewhere its value 0 is never used (log entry 15). -/
def dinv (q a : Nat) : Nat := (firstBelow q fun d => 1 ≤ d && mulQ q a d == 1).getD 0

/-- No number from `d` on, up to the square root of `q`, divides `q`; `fuel` bounds the trials. -/
def noDivisorFrom (q : Nat) : Nat → Nat → Bool
  | 0, _ => true
  | fuel + 1, d => if q < d * d then true else if q % d = 0 then false else noDivisorFrom q fuel (d + 1)

/-- `q` is prime, by trial division. -/
def isPrime (q : Nat) : Bool := 2 ≤ q && noDivisorFrom q q 2

/-- Normalisation (R152): `red[i] = negq(c[i] *q dinv(c[m]))`, so that `x^m = sum of red[i] * x^i`. -/
def reduction (q m : Nat) (c : List Nat) : List Nat :=
  let inv := dinv q (at0 c m)
  tabulate m fun i => negQ q (mulQ q (at0 c i) inv)

/-- One step of the table build (R153): the row times x, reduced. -/
def nextRow (q m : Nat) (red row : List Nat) : List Nat :=
  let ov := at0 row (m - 1)
  tabulate m fun d => addQ q (if d = 0 then 0 else at0 row (d - 1)) (mulQ q ov (at0 red d))

/-- `n` rows, `row` first, each the next of the one before. -/
def rowsFrom (q m : Nat) (red : List Nat) : Nat → List Nat → List (List Nat)
  | 0, _ => []
  | n + 1, row => row :: rowsFrom q m red n (nextRow q m red row)

/-- The element table (R153): the zero vector, then 1, x, x^2, ... up to q^m rows. -/
def buildTable (q m : Nat) (red : List Nat) : List (List Nat) :=
  tabulate m (fun _ => 0) :: rowsFrom q m red (q ^ m - 1) (tabulate m fun d => if d = 0 then 1 else 0)

/-- The smallest index, counted from `i`, of a row that equals one of `seen` or an earlier row. -/
def firstRepeatFrom (seen : List (List Nat)) (i : Nat) : List (List Nat) → Option Nat
  | [] => none
  | row :: rest => if seen.contains row then some i else firstRepeatFrom (row :: seen) (i + 1) rest

/-- The distinctness check (R154): the smallest index whose row repeats an earlier one, row 0 included. -/
def firstRepeat (table : List (List Nat)) : Option Nat := firstRepeatFrom [] 0 table

/-- V2I (R155): each row of ELEM with its index. -/
def inverseMap (table : List (List Nat)) : List (List Nat × Nat) := table.zipIdx

/-- The built field as the commands read it (R150): q, m, FSIZE and the two tables. -/
structure FieldView where
  q : Nat
  m : Nat
  size : Nat
  elem : List (List Nat)
  v2i : List (List Nat × Nat)
  deriving DecidableEq, Repr

/-- N = q^m - 1, the order of the multiplicative group (R150). -/
def FieldView.order (F : FieldView) : Nat := F.size - 1

/-- `vec(a) = ELEM[a]` (R160). -/
def vec (F : FieldView) (a : Nat) : List Nat := F.elem.getD a []

/-- `idx(v) = V2I(v)` (R161). It is defined for every digit vector of a built field; its 0 elsewhere is never used
(log entry 15). -/
def idx (F : FieldView) (v : List Nat) : Nat := (F.v2i.lookup v).getD 0

/-- `gadd` (R162), digit by digit. -/
def gadd (F : FieldView) (a b : Nat) : Nat :=
  idx F (tabulate F.m fun d => addQ F.q (at0 (vec F a) d) (at0 (vec F b) d))

/-- `gsub` (R163), digit by digit. -/
def gsub (F : FieldView) (a b : Nat) : Nat :=
  idx F (tabulate F.m fun d => subQ F.q (at0 (vec F a) d) (at0 (vec F b) d))

/-- The index of x^e for an integer e of any sign (R168): `e mod N + 1`. -/
def alpha (F : FieldView) (e : Int) : Nat := (e % (F.order : Int)).toNat + 1

/-- `gmul` (R164, with spec/90_conflicts.md C1). -/
def gmul (F : FieldView) (a b : Nat) : Nat :=
  if a = 0 ∨ b = 0 then 0 else alpha F (((a : Int) - 1) + ((b : Int) - 1))

/-- `gdiv` (R165) for b not 0; the caller raises DIVISION_BY_ZERO for b = 0. -/
def gdiv (F : FieldView) (a b : Nat) : Nat :=
  if a = 0 then 0 else alpha F (((a : Int) - 1) - ((b : Int) - 1))

/-- `gpow` (R166) except for a = 0 with e < 0, where the caller raises DIVISION_BY_ZERO. The product is exact. -/
def gpow (F : FieldView) (a : Nat) (e : Int) : Nat :=
  if a = 0 then (if e = 0 then 1 else 0) else alpha F (((a : Int) - 1) * e)

/-- `ginv` (R167) for a not 0; the caller raises DIVISION_BY_ZERO for a = 0. -/
def ginv (F : FieldView) (a : Nat) : Nat := alpha F (-((a : Int) - 1))

end Sys2Proof.Machine
end

