-- ==== Sys2Proof/Machine/Poly.lean ====
section
/-! DEFINITION. Polynomials over the built field (spec/41_polynomial.md R185 to R187): a list of element indices,
entry i the coefficient of x^i. -/

namespace Sys2Proof.Machine

/-- `trim(p)` (R185): high-order zeros removed while more than one entry is left; the empty list reads as [0]. -/
def trim (p : List Nat) : List Nat :=
  match (p.reverse.dropWhile (· == 0)).reverse with
  | [] => [0]
  | c :: cs => c :: cs

/-- `padd(a, b)` (R186). -/
def padd (F : FieldView) (a b : List Nat) : List Nat :=
  trim (tabulate (max a.length b.length) fun i => gadd F (at0 a i) (at0 b i))

/-- `psub(a, b)` (R186). -/
def psub (F : FieldView) (a b : List Nat) : List Nat :=
  trim (tabulate (max a.length b.length) fun i => gsub F (at0 a i) (at0 b i))

/-- `pscale(a, c)` (R186). -/
def pscale (F : FieldView) (a : List Nat) (c : Nat) : List Nat := trim (a.map fun x => gmul F x c)

/-- One inner step of `pmul`: `res[k] = gadd(res[k], v)`. -/
def accumulate (F : FieldView) (res : List Nat) (k v : Nat) : List Nat := res.set k (gadd F (at0 res k) v)

/-- `pmul(a, b)` (R186): full convolution. -/
def pmul (F : FieldView) (a b : List Nat) : List Nat :=
  let a := trim a
  let b := trim b
  trim ((List.range a.length).foldl
    (fun res i => (List.range b.length).foldl (fun res j => accumulate F res (i + j) (gmul F (at0 a i) (at0 b j))) res)
    (List.replicate (a.length + b.length - 1) 0))

/-- `rem[sh+i] = gsub(rem[sh+i], gmul(c, b[i]))` for i in [0, db] (R186). -/
def subtractShifted (F : FieldView) (rem b : List Nat) (sh db c : Nat) : List Nat :=
  (List.range (db + 1)).foldl (fun r i => r.set (sh + i) (gsub F (at0 r (sh + i)) (gmul F c (at0 b i)))) rem

/-- The division loop of `pdivmod` (R186) for the shifts `n - 1` down to 0; answers the quotient and the remainder. -/
def divLoop (F : FieldView) (b : List Nat) (db : Nat) : Nat → List Nat → List Nat → List Nat × List Nat
  | 0, quo, rem => (quo, rem)
  | sh + 1, quo, rem =>
    let c := gdiv F (at0 rem (sh + db)) (at0 b db)
    let rem' := if c = 0 then rem else subtractShifted F rem b sh db c
    divLoop F b db sh (quo.set sh c) rem'

/-- `pdivmod(a, b)` (R186) for trim b not [0]; the caller raises DIVISION_BY_ZERO for trim b = [0]. -/
def pdivmod (F : FieldView) (a b : List Nat) : List Nat × List Nat :=
  let a := trim a
  let b := trim b
  let db := b.length - 1
  if a.length - 1 < db then ([0], trim a)
  else
    let r := divLoop F b db (a.length - db) (List.replicate (a.length - db) 0) a
    (trim r.1, if 0 < db then trim (r.2.take db) else [0])

/-- One term of `peval`: the pair of the sum so far and the running power of x. -/
def evalStep (F : FieldView) (x : Nat) (acc : Nat × Nat) (c : Nat) : Nat × Nat :=
  (gadd F acc.1 (gmul F c acc.2), gmul F acc.2 x)

/-- `peval(a, x)` (R186), with a running power of x. -/
def peval (F : FieldView) (a : List Nat) (x : Nat) : Nat := ((trim a).foldl (evalStep F x) (0, 1)).1

/-- The variables of the extended Euclidean algorithm (R187). -/
structure Euclid where
  r0 : List Nat
  r1 : List Nat
  s0 : List Nat
  s1 : List Nat
  t0 : List Nat
  t1 : List Nat
  deriving DecidableEq, Repr

/-- One pass of the loop of `pxgcd` (R187). -/
def euclidStep (F : FieldView) (v : Euclid) : Euclid :=
  let qr := pdivmod F v.r0 v.r1
  { r0 := v.r1, r1 := qr.2
    s0 := v.s1, s1 := psub F v.s0 (pmul F qr.1 v.s1)
    t0 := v.t1, t1 := psub F v.t0 (pmul F qr.1 v.t1) }

/-- The loop of `pxgcd` while r1 is not [0], at most `fuel` passes. -/
def euclidLoop (F : FieldView) : Nat → Euclid → Euclid
  | 0, v => v
  | fuel + 1, v => if v.r1 = [0] then v else euclidLoop F fuel (euclidStep F v)

/-- Where `pxgcd` starts (R187). -/
def euclidStart (a b : List Nat) : Euclid :=
  { r0 := trim a, r1 := trim b, s0 := [1], s1 := [0], t0 := [0], t1 := [1] }

/-- `pxgcd(a, b)` (R187): (g, s, t) with g monic. r1 gets shorter in each pass, so as many passes as the trimmed b has
entries end the loop (log entry 13, DEDUCED). -/
def pxgcd (F : FieldView) (a b : List Nat) : List Nat × List Nat × List Nat :=
  let v := euclidLoop F ((trim b).length + 1) (euclidStart a b)
  if v.r0 = [0] then (v.r0, v.s0, v.t0)
  else
    let c := ginv F (at0 v.r0 (v.r0.length - 1))
    (pscale F v.r0 c, pscale F v.s0 c, pscale F v.t0 c)

/-- The formal derivative in characteristic 2 (R195). -/
def pderiv (a : List Nat) : List Nat :=
  let a := trim a
  trim (tabulate (a.length - 1) fun k => if (k + 1) % 2 = 1 then at0 a (k + 1) else 0)

end Sys2Proof.Machine
end

