-- ==== Sys2Proof/Machine/BchMath.lean ====
section
/-! DEFINITION. The BCH functions (spec/44_bch.md R282, R285, R290, R295): syndromes, Berlekamp-Massey, Chien search,
bit flips. -/

namespace Sys2Proof.Machine

/-- `S_i` of a bit word r of length n (R282): the sum of `alpha(i * j)` over the ones of r. -/
def bchSyndrome (F : FieldView) (n : Nat) (r : List Nat) (i : Nat) : Nat :=
  (List.range n).foldl (fun acc j => if at0 r j = 1 then gadd F acc (alpha F ((i * j : Nat) : Int)) else acc) 0

/-- `bsyn(r, t, b)` (R282): S_b to S_{b+2t-1}, the index b + u unbounded. -/
def bsyn (F : FieldView) (n : Nat) (r : List Nat) (t b : Nat) : List Nat :=
  tabulate (2 * t) fun u => bchSyndrome F n r (b + u)

/-- The variables of Berlekamp-Massey (R285). -/
structure BmVars where
  /-- the current locator Λ -/
  locator : List Nat
  /-- the auxiliary polynomial B -/
  aux : List Nat
  /-- the current length L -/
  len : Nat
  /-- m_counter -/
  mc : Nat
  /-- b, the last nonzero discrepancy -/
  bd : Nat
  deriving DecidableEq, Repr

/-- The initial values (R285). -/
def bmStart : BmVars := { locator := [1], aux := [1], len := 0, mc := 1, bd := 1 }

/-- The discrepancy Δ at r (R285). -/
def discrepancy (F : FieldView) (s : List Nat) (v : BmVars) (r : Nat) : Nat :=
  (List.range v.len).foldl (fun acc k => gadd F acc (gmul F (at0 v.locator (k + 1)) (at0 s (r - (k + 1))))) (at0 s r)

/-- `shift(p, k)`: k zeros then p (R285). -/
def shiftPoly (p : List Nat) (k : Nat) : List Nat := List.replicate k 0 ++ p

/-- `T = Λ - (Δ / b) x^mc B` (R285). -/
def bmUpdate (F : FieldView) (v : BmVars) (delta : Nat) : List Nat :=
  psub F v.locator (shiftPoly (pscale F v.aux (gdiv F delta v.bd)) v.mc)

/-- One pass of Berlekamp-Massey (R285). -/
def bmStep (F : FieldView) (s : List Nat) (v : BmVars) (r : Nat) : BmVars :=
  let delta := discrepancy F s v r
  if delta = 0 then { v with mc := v.mc + 1 }
  else if 2 * v.len ≤ r then
    { locator := bmUpdate F v delta, aux := v.locator, len := r + 1 - v.len, mc := 1, bd := delta }
  else { v with locator := bmUpdate F v delta, mc := v.mc + 1 }

/-- `bm(s)` over a sequence of length `count` = 2t (R285): the trimmed locator and L. -/
def berlekampMassey (F : FieldView) (s : List Nat) (count : Nat) : List Nat × Nat :=
  let v := (List.range count).foldl (bmStep F s) bmStart
  (trim v.locator, v.len)

/-- The positions i in [0, n) with Λ(alpha(-i)) = 0, increasing (R290). -/
def chienPositions (F : FieldView) (n : Nat) (locator : List Nat) : List Nat :=
  (List.range n).filter fun (i : Nat) => peval F locator (alpha F (-(i : Int))) == 0

/-- Step 6 of BDEC (R295): each located bit flipped. -/
def flipBits (w : List Nat) (P : List Nat) : List Nat := P.foldl (fun w p => w.set p (1 - at0 w p)) w

end Sys2Proof.Machine
end

