-- ==== Sys2Proof/Machine/Code.lean ====
section
/-! DEFINITION. The Hamming-family code: H, G, the encoder's word and the syndrome (spec/42_code_encoder.md R200 to
R214). -/

namespace Sys2Proof.Machine

/-- The exponent of column j of H (R203). -/
def columnExponent (m n k j : Nat) : Nat := if j < k then m + j else n - 1 - j

/-- H (R203), r = n - k rows of n digits: `H[i][j] = vec(alpha(e_j))[m - 1 - i]`. -/
def parityMatrix (F : FieldView) (n k : Nat) : List (List Nat) :=
  tabulate (n - k) fun i => tabulate n fun j => at0 (vec F (alpha F (columnExponent F.m n k j))) (F.m - 1 - i)

/-- G (R204, with spec/90_conflicts.md C2), a function of H: `[I_k | -Pᵗ]`. -/
def genAt (q k : Nat) (H : List (List Nat)) (i j : Nat) : Nat :=
  if j < k then (if i = j then 1 else 0) else negQ q (matAt H (j - k) i)

/-- The sum the orthogonality check takes for row i of H and row l of G (R205). -/
def orthoSum (q n k : Nat) (H : List (List Nat)) (i l : Nat) : Nat :=
  sumBelow n (fun j => matAt H i j * genAt q k H l j) % q

/-- The first (i, l) at which H and G are not orthogonal (R205). -/
def orthoFailure (q n k : Nat) (H : List (List Nat)) : Option (Nat × Nat) :=
  firstSome (n - k) fun i => firstSome k fun l => if orthoSum q n k H i l = 0 then none else some (i, l)

/-- The built code as the commands read it (R200): the field's q, the snapshot and H. -/
structure CodeView where
  q : Nat
  n : Nat
  k : Nat
  /-- variant: 0 Classic, 1 Shortened, 2 Extended -/
  var : Nat
  s : Nat
  H : List (List Nat)
  deriving DecidableEq, Repr

/-- r = n - k (R200). -/
def CodeView.r (C : CodeView) : Nat := C.n - C.k

/-- The variant is Extended (R200). -/
def CodeView.extended (C : CodeView) : Bool := C.var == 2

/-- The wire length W (R200). -/
def CodeView.wireLen (C : CodeView) : Nat :=
  if C.var = 1 then C.n - C.s else if C.var = 2 then C.n + 1 else C.n

/-- The information length K' (R200). -/
def CodeView.infoLen (C : CodeView) : Nat := if C.var = 1 then C.k - C.s else C.k

/-- `negq` of the sum of a word's first n symbols: the overall-parity symbol (R210, R250). -/
def overallParity (C : CodeView) (y : List Nat) : Nat := negQ C.q (sumBelow C.n (fun j => at0 y j) % C.q)

/-- The wire word of a padded word y with parity symbol p (R210, R252). -/
def wireWord (C : CodeView) (y : List Nat) (p : Nat) : List Nat :=
  if C.var = 1 then tabulate (C.n - C.s) fun j => at0 y (C.s + j)
  else if C.var = 2 then tabulate C.n (fun j => at0 y j) ++ [p]
  else tabulate C.n fun j => at0 y j

/-- The codeword of the padded information word wf (R210): `c[j] = (sum of wf[i] * G[i][j]) mod q`. -/
def encodeWord (C : CodeView) (wf : List Nat) : List Nat :=
  tabulate C.n fun j => sumBelow C.k (fun i => at0 wf i * genAt C.q C.k C.H i j) % C.q

/-- `s` zeros before a word (R210, R213). -/
def padZeros (s : Nat) (w : List Nat) : List Nat := List.replicate s 0 ++ w

/-- The syndrome `syn(y)` (R214). -/
def syndrome (C : CodeView) (y : List Nat) : List Nat :=
  tabulate C.r fun i => sumBelow C.n (fun j => matAt C.H i j * at0 y j) % C.q

/-- The syndrome is zero. -/
def isZero (S : List Nat) : Bool := S.all (· == 0)

/-- `erased(j)` (R213): an IN word outside [0, q), or a listed wire position. -/
def erasedAt (C : CodeView) (inw eras : List Nat) (j : Nat) : Bool := C.q ≤ at0 inw j || eras.contains j

/-- `yw` (R213): the wire word with every erased symbol 0. -/
def knownWord (C : CodeView) (inw eras : List Nat) : List Nat :=
  tabulate C.wireLen fun j => if erasedAt C inw eras j then 0 else at0 inw j

/-- `y` (R213): the padded word, of length n. -/
def paddedWord (C : CodeView) (inw eras : List Nat) : List Nat :=
  padZeros C.s ((knownWord C inw eras).take (C.n - C.s))

end Sys2Proof.Machine
end

