-- ==== Sys2Proof/Config.lean ====
section
/-! DEFINITION. What an implementation fixes (the parameters of spec/00_scope.md R5) and the free values: what
the spec leaves open, as constants without a body. -/

namespace Sys2Proof

/-- The implementation parameters of R5. A State carries one set of them, which no step changes, so that every
statement about all states is a statement about all sizes (log entry 1, DESIGN CHOICE). -/
structure Params where
  /-- P_FSMAX, the largest field size q^m the element table holds -/
  fsmax : Nat
  /-- P_MMAX, the largest extension degree -/
  mmax : Nat
  /-- P_NBUF, the depth in words of every data window -/
  nbuf : Nat
  /-- P_TMAX, the largest BCH capacity -/
  tmax : Nat
  /-- P_PLEN, the largest polynomial length -/
  plen : Nat
  /-- P_BASE, the bus base address of the 64 KiB region (OPEN in R5) -/
  base : Nat
  deriving DecidableEq, Repr

/-- The reference configuration: the defaults of R5. P_BASE has none; 0 is a DESIGN CHOICE (log entry 1). -/
def Params.reference : Params :=
  { fsmax := 65536, mmax := 16, nbuf := 1024, tmax := 32, plen := 1024, base := 0 }

/-- FREE VALUE (log entry 2): the byte a window holds after the `epoch`-th hardware reset at a region offset
nothing has written since (spec/10_state.md R55, spec/93_implementation_defined.md I1, I13). -/
opaque Config.freeWindowByte : Nat → Nat → Byte

/-- FREE VALUE (log entries 3, 4): the data of the `k`-th bus read whose value the spec leaves unspecified: an output
read while BUSY = 1 (I2), or the data that comes with a bus error (I3). A new draw at each read. -/
opaque Config.freeBusData : Nat → Word

/-- FREE VALUE (log entry 5): how many host steps are performed between the acceptance and the completion of a
command, if the host has that many ready. It stands for P_LAT (spec/70_reset_and_hazards.md R463) and for the
open order of transactions and completions (spec/60_exceptions.md R421). -/
opaque Config.freeDelay : Nat → Nat

end Sys2Proof
end

