-- ==== Sys2Proof/Syntax.lean ====
section
/-! DEFINITION. The commands of spec/30_encoding.md R122 (one constructor per row of spec/opcode_table.json) and the
host's bus steps of R125, with the names of the registers and windows they reach (spec/10_state.md). -/

namespace Sys2Proof

/-- The 26 commands of R122. They carry no operand field (R121). -/
inductive Instr
  | nop | fbuild | cbuild
  | fadd | fsub | fmul | fdiv | fpow | finv | fi2v | fv2i
  | enc | synd | hdec
  | bsyn | bm | chien | bdec
  | padd | psub | pmul | pdivmod | peval | pgcd | pxgcd | pderiv
  deriving DecidableEq, Repr

/-- The two fields of a command word in the format CMD32 (R120). -/
structure CmdFields where
  /-- bits 7:0 -/
  opc : BitVec 8
  /-- bits 31:8, which must be 0 -/
  rsv : BitVec 24
  deriving DecidableEq, Repr

/-- One step of the host (R125), or an edge of the reset pin (spec/70_reset_and_hazards.md R450). Addresses are bus
addresses; `width` is the access width in bytes. -/
inductive BusStep
  | read (addr width : Nat)
  | write (addr width : Nat) (v : Word)
  /-- WAIT: read STATUS until BUSY is 0 -/
  | wait
  /-- rst_n falls: the hardware reset is asserted -/
  | resetLow
  /-- rst_n rises: the hardware reset is released -/
  | resetHigh
  deriving DecidableEq, Repr

/-- What the bus answers to the last transaction. -/
inductive BusResponse
  /-- no transaction has been made since the last hardware reset was asserted -/
  | idle
  /-- the transaction was made while rst_n = 0, when the bus answers nothing (R450) -/
  | unanswered
  /-- a legal read and its data -/
  | data (v : Word)
  /-- a legal write was performed, or ignored without error -/
  | written
  /-- a bus error; for a read `v` is the unspecified data that comes with it -/
  | error (v : Option Word)
  deriving DecidableEq, Repr

/-- The data windows of spec/10_state.md R45, in address order. -/
inductive Win
  | inp | out | info | syn | lambda | pos | eras | pa | pb | pr0 | pr1 | pr2
  deriving DecidableEq, Repr

/-- The single-word registers of spec/10_state.md R31 to R49. -/
inductive Reg
  | id | ctrl | status | cmd | errcode | errinfo | dstat | result0 | result1
  | fsize | fqB | fmB | cnB | ckB | cvarB | csB
  | opa | opb | ope
  | llen | lreg | neras | palen | pblen | pr0len | pr1len | pr2len
  | mrow | mcol | hdata | gdata
  | fq | fm | cn | ck | cvar | cs
  | bn | bk | bt | bfcr
  deriving DecidableEq, Repr

/-- What stands at an offset of the region (spec/20_memory.md R81). -/
inductive Loc
  | reg (r : Reg)
  | vreg (d : Nat)
  | poly (i : Nat)
  | window (w : Win) (i : Nat)
  | reserved
  deriving DecidableEq, Repr

end Sys2Proof
end

