-- ==== Sys2Proof/Decode.lean ====
section
/-! DEFINITION. Decoding a command word, total on all 2^32 words, and encoding a command
(spec/30_encoding.md R120, R122, R124); and which bus accesses reach the core and are legal (spec/20_memory.md R80,
R82). -/

namespace Sys2Proof

/-- Why a word is illegal (R124). -/
inductive DecodeReject
  /-- RSV, bits 31:8, is not 0 -/
  | reservedBitsSet
  /-- the opcode is not in R122's table -/
  | unassignedOpcode
  deriving DecidableEq, Repr

/-- The fields of a word in the format CMD32 (R120). -/
def cmdFields (w : Word) : CmdFields :=
  { opc := w.extractLsb' 0 8, rsv := w.extractLsb' 8 24 }

/-- The opcode map of R122: system and construction commands and the field unit. -/
def fieldOpcodes : List (Nat × Instr) :=
  [(0x00, Instr.nop), (0x01, Instr.fbuild), (0x02, Instr.cbuild),
   (0x10, Instr.fadd), (0x11, Instr.fsub), (0x12, Instr.fmul), (0x13, Instr.fdiv),
   (0x14, Instr.fpow), (0x15, Instr.finv), (0x16, Instr.fi2v), (0x17, Instr.fv2i)]

/-- The opcode map of R122: the code, BCH and polynomial units. -/
def codeOpcodes : List (Nat × Instr) :=
  [(0x20, Instr.enc), (0x21, Instr.synd), (0x22, Instr.hdec),
   (0x30, Instr.bsyn), (0x31, Instr.bm), (0x32, Instr.chien), (0x33, Instr.bdec),
   (0x40, Instr.padd), (0x41, Instr.psub), (0x42, Instr.pmul), (0x43, Instr.pdivmod),
   (0x44, Instr.peval), (0x45, Instr.pgcd), (0x46, Instr.pxgcd), (0x47, Instr.pderiv)]

/-- The opcode map of R122. -/
def opcodeTable : List (Nat × Instr) := fieldOpcodes ++ codeOpcodes

/-- The command a word encodes, or why it is illegal. -/
def decode (w : Word) : Except DecodeReject Instr :=
  if (cmdFields w).rsv = 0 then
    match opcodeTable.lookup (cmdFields w).opc.toNat with
    | some i => .ok i
    | none => .error .unassignedOpcode
  else .error .reservedBitsSet

/-- OPC of a command, bits 7:0 (R122, transcribed a second time). -/
def opcodeOf : Instr → BitVec 8
  | .nop => 0x00
  | .fbuild => 0x01
  | .cbuild => 0x02
  | .fadd => 0x10
  | .fsub => 0x11
  | .fmul => 0x12
  | .fdiv => 0x13
  | .fpow => 0x14
  | .finv => 0x15
  | .fi2v => 0x16
  | .fv2i => 0x17
  | .enc => 0x20
  | .synd => 0x21
  | .hdec => 0x22
  | .bsyn => 0x30
  | .bm => 0x31
  | .chien => 0x32
  | .bdec => 0x33
  | .padd => 0x40
  | .psub => 0x41
  | .pmul => 0x42
  | .pdivmod => 0x43
  | .peval => 0x44
  | .pgcd => 0x45
  | .pxgcd => 0x46
  | .pderiv => 0x47

/-- The command word: RSV = 0 above OPC (R120). -/
def encode (i : Instr) : Word := (0 : BitVec 24) ++ opcodeOf i

/-- A row's word as spec/opcode_table.json numbers its bits: a command is one 32-bit word, so the word is the number
itself, the bits at and above `nbits` being 0. -/
def tableWord (nbits w : Nat) : Word := toWord (w % 2 ^ nbits)

/-- What the decoder reads from a row's word. -/
def decodeTableWord (nbits w : Nat) : Option Instr :=
  match decode (tableWord nbits w) with
  | .ok i => some i
  | .error _ => none

/-! ### What the bus decodes of an access -/

/-- The size of the core's region in bytes (R80). -/
def regionBytes : Nat := 0x10000

/-- The address lies in the core's region (R80). -/
def inRegion (p : Params) (addr : Nat) : Bool := p.base ≤ addr && addr < p.base + regionBytes

/-- A legal access: 32 bits wide at a 4-aligned offset (R82). -/
def legalAccess (offset width : Nat) : Bool := width == 4 && offset % 4 == 0

end Sys2Proof
end

