-- ==== Sys2Proof/WellFormed.lean ====
section
/-! DEFINITION. Well-formedness: of a command word (spec/30_encoding.md R120, R122), of a bus access
(spec/20_memory.md R82) and of the implementation parameters (spec/00_scope.md R5). A command itself has no field that
could be ill-formed (R121), so every Instr is well-formed. -/

namespace Sys2Proof

/-- A word's fields are legal: RSV = 0 and OPC is in the table (R120). -/
def CmdFields.wf (c : CmdFields) : Bool :=
  c.rsv == 0 && opcodeTable.any fun row => row.1 == c.opc.toNat

/-- Every command is well-formed: R121 gives it no immediate and no register field. -/
def Instr.wf (i : Instr) : Bool := (cmdFields (encode i)).wf

/-- A host step that is a legal access of the core (R82), a WAIT or an edge of rst_n. -/
def BusStep.wf (p : Params) : BusStep → Bool
  | .read addr width => inRegion p addr && legalAccess (addr - p.base) width
  | .write addr width _ => inRegion p addr && legalAccess (addr - p.base) width
  | .wait => true
  | .resetLow => true
  | .resetHigh => true

/-- The constraints of R5. That a field size fits the 32-bit register FSIZE is DEDUCED from R7 and R40
(log entry 1). -/
def Params.wf (p : Params) : Bool :=
  4 ≤ p.fsmax && p.fsmax < 2 ^ 32 && p.mmax ≤ 16 && p.nbuf ≤ 1024 && 2 * p.tmax + 1 ≤ p.nbuf && p.plen ≤ p.nbuf &&
    p.base % regionBytes == 0

end Sys2Proof
end

