-- ==== Sys2Proof/Machine/State.lean ====
section
/-! DEFINITION. The state of the core as plain data, the reasons a step can stop, and the state after a hardware reset
(spec/10_state.md, spec/70_reset_and_hazards.md R451). -/

namespace Sys2Proof.Machine

open Sys2Proof

/-- Why the machine stops with a fault. -/
inductive Fault
  /-- Raised by `step` for a host access whose address lies outside the core's 64 KiB region: the core has no other
  address space (spec/20_memory.md R80). Safe: the model stops where the platform's bus would go on (log entry 7). -/
  | outsideRegion (addr : Nat)
  deriving DecidableEq, Repr

/-- Why an instruction is refused. -/
inductive Refusal
  /-- Raised by an arm of `exec` without a meaning; no arm of this model raises it. Safe. -/
  | notModelled (mnemonic : String)
  deriving DecidableEq, Repr

/-- The error codes of spec/60_exceptions.md R410. -/
inductive ErrCode
  | noError | illegalCommand | incorrectCharacteristic | incorrectDegree | incorrectPolynomial | fieldConstruction
  | fieldNotValid | operandRange | divisionByZero | construction | shapeOrOrthogonality | invalidShortening
  | codeNotValid | uncorrectable | notBinary | capacity
  deriving DecidableEq, Repr

/-- `raise CmdError(CODE, info)` (spec/00_scope.md R8, spec/60_exceptions.md R402). -/
structure CmdError where
  code : ErrCode
  info : Word
  deriving DecidableEq, Repr

/-- The bits of STATUS (spec/10_state.md R33); bits 31:6 read 0. -/
structure Status where
  busy : Bool
  done : Bool
  err : Bool
  fvalid : Bool
  cvalid : Bool
  wob : Bool
  deriving DecidableEq, Repr

/-- The decode status flags DSTAT (spec/10_state.md R37); bits 31:12 read 0. -/
structure DStat where
  erased : Bool
  erasOk : Bool
  erasFail : Bool
  corrected : Bool
  detectOnly : Bool
  parityFixed : Bool
  doubleDetect : Bool
  punctured : Bool
  parityErased : Bool
  bszero : Bool
  lmismatch : Bool
  buncorr : Bool
  deriving DecidableEq, Repr

/-- No flag set. -/
def DStat.clear : DStat :=
  { erased := false, erasOk := false, erasFail := false, corrected := false, detectOnly := false, parityFixed := false,
    doubleDetect := false, punctured := false, parityErased := false, bszero := false, lmismatch := false,
    buncorr := false }

/-- No bit set. -/
def Status.clear : Status :=
  { busy := false, done := false, err := false, fvalid := false, cvalid := false, wob := false }

/-- The bytes of the data windows, keyed by region offset, offsets strictly rising. An offset that is not listed holds
no value written since the last hardware reset. -/
abbrev Memory := List Host.Cell

/-- The state of the core, of the host steps still to come and of the bus response. INVENTORY.md names the rule of each
field. -/
structure State where
  /-- the implementation parameters (R5), changed by no step; the model's own field (log entry 1) -/
  params : Params
  /-- the level of the reset pin rst_n (spec/70_reset_and_hazards.md R450), true for 1; while it is false the core is
  held in reset -/
  rstN : Bool
  /-- CTRL.IE (R32) -/
  ie : Bool
  /-- STATUS (R33) -/
  status : Status
  /-- CMD (R34) -/
  cmd : Word
  /-- ERRCODE (R35) -/
  errcode : ErrCode
  /-- ERRINFO (R36) -/
  errinfo : Word
  /-- DSTAT (R37) -/
  dstat : DStat
  /-- RESULT0 (R38) -/
  result0 : Word
  /-- RESULT1 (R39) -/
  result1 : Word
  /-- FSIZE, q^m of the built field (R40) -/
  fsize : Word
  /-- FQ_B (R40) -/
  fqB : Word
  /-- FM_B (R40) -/
  fmB : Word
  /-- CN_B (R41) -/
  cnB : Word
  /-- CK_B (R41) -/
  ckB : Word
  /-- CVAR_B (R41) -/
  cvarB : Word
  /-- CS_B (R41) -/
  csB : Word
  /-- OPA (R42) -/
  opa : Word
  /-- OPB (R42) -/
  opb : Word
  /-- OPE, signed (R42) -/
  ope : Word
  /-- FQ (R43) -/
  fq : Word
  /-- FM (R43) -/
  fm : Word
  /-- POLY (R43): words 0 to P_MMAX exist -/
  poly : Vector Word 17
  /-- CN (R44) -/
  cn : Word
  /-- CK (R44) -/
  ck : Word
  /-- CVAR (R44) -/
  cvar : Word
  /-- CS (R44) -/
  cs : Word
  /-- BN (R46) -/
  bn : Word
  /-- BK (R46): stored and read back, used by no command -/
  bk : Word
  /-- BT (R46) -/
  bt : Word
  /-- BFCR (R46) -/
  bfcr : Word
  /-- VREG (R47): words 0 to P_MMAX - 1 exist -/
  vreg : Vector Word 16
  /-- LLEN (R48) -/
  llen : Word
  /-- LREG (R48) -/
  lreg : Word
  /-- NERAS (R48) -/
  neras : Word
  /-- PALEN (R48) -/
  palen : Word
  /-- PBLEN (R48) -/
  pblen : Word
  /-- PR0LEN (R48) -/
  pr0len : Word
  /-- PR1LEN (R48) -/
  pr1len : Word
  /-- PR2LEN (R48) -/
  pr2len : Word
  /-- MROW (R49) -/
  mrow : Word
  /-- MCOL (R49) -/
  mcol : Word
  /-- ELEM (R50): row i is the coefficient vector of element i; none while unspecified (log entry 8) -/
  elem : Option (List (List Nat))
  /-- V2I (R50), the inverse map of ELEM; none while unspecified -/
  v2i : Option (List (List Nat × Nat))
  /-- H (R51), a list of rows; none while unspecified -/
  hmat : Option (List (List Nat))
  /-- the data windows (R45) -/
  win : Memory
  /-- how many host steps still precede the completion of the running command; the model's own (log entry 5) -/
  delay : Nat
  /-- how many free values have been drawn; the model's own -/
  draws : Nat
  /-- how many hardware resets have drawn new window contents; the model's own -/
  epoch : Nat
  /-- the host's steps still to come, oldest first; the model's own (log entry 6) -/
  host : List BusStep
  /-- the bus response to the last transaction; the model's own -/
  resp : BusResponse
  deriving DecidableEq, Repr

/-- The state after a hardware reset (R451), rst_n released, in the reference configuration, with no host step pending.
The values of `params.base`, `delay`, `draws`, `epoch`, `host` and `resp` are the model's (log entries 1 and 14, DESIGN CHOICE). -/
def State.reset : State :=
  { params := Params.reference, rstN := true
    ie := false, status := Status.clear, cmd := 0, errcode := .noError, errinfo := 0, dstat := DStat.clear
    result0 := 0, result1 := 0
    fsize := 0, fqB := 0, fmB := 0, cnB := 0, ckB := 0, cvarB := 0, csB := 0
    opa := 0, opb := 0, ope := 0
    fq := 0, fm := 0, poly := Vector.replicate 17 0, cn := 0, ck := 0, cvar := 0, cs := 0
    bn := 0, bk := 0, bt := 0, bfcr := 0, vreg := Vector.replicate 16 0
    llen := 0, lreg := 0, neras := 0, palen := 0, pblen := 0, pr0len := 0, pr1len := 0, pr2len := 0
    mrow := 0, mcol := 0
    elem := none, v2i := none, hmat := none
    win := []
    delay := 0, draws := 0, epoch := 0, host := [], resp := .idle }

end Sys2Proof.Machine
end

