-- ==== Sys2Proof/Machine/Decoder.lean ====
section
/-! DEFINITION. The syndrome decoder (spec/43_syndrome_decoder.md R242 to R252): erasure resolver, single-error search
and the variants' rules. -/

namespace Sys2Proof.Machine

/-- `Ep` (R242): the erased positions the syndrome covers, padded coordinates, increasing. -/
def erasedPositions (C : CodeView) (inw eras : List Nat) : List Nat :=
  ((List.range C.wireLen).filter fun j => erasedAt C inw eras j && C.s + j < C.n).map (C.s + ·)

/-- `pe` (R242): the overall-parity position of an Extended word is erased. -/
def parityErased (C : CodeView) (inw eras : List Nat) : Bool := C.extended && erasedAt C inw eras C.n

/-- The augmented matrix of the erasure system (R244). -/
def erasureSystem (C : CodeView) (Ep S0 : List Nat) : List (List Nat) :=
  tabulate C.r fun i => Ep.map (fun c => matAt C.H i c) ++ [negQ C.q (at0 S0 i)]

/-- Rows a and b of M exchanged. -/
def swapRows (M : List (List Nat)) (a b : Nat) : List (List Nat) :=
  (M.set a (M.getD b [])).set b (M.getD a [])

/-- One column of the elimination once its pivot row is in place (R244): the pivot row is scaled to a leading 1 and
subtracted from every other row. -/
def reduceColumn (q : Nat) (M : List (List Nat)) (row col : Nat) : List (List Nat) :=
  let f := dinv q (matAt M row col)
  let prow := (M.getD row []).map fun x => mulQ q x f
  tabulate M.length fun i =>
    if i = row then prow
    else
      let g := matAt M i col
      tabulate (M.getD i []).length fun c => subQ q (matAt M i c) (mulQ q g (at0 prow c))

/-- The elimination (R244) for `cols` more columns from `col`, `row` the current row; none if some column has no
pivot. The pivot is the first nonzero entry at or below the current row, in increasing row order. -/
def eliminate (q r : Nat) : Nat → Nat → Nat → List (List Nat) → Option (List (List Nat))
  | 0, _, _, M => some M
  | cols + 1, row, col, M =>
    match firstBelow r fun i => row ≤ i && matAt M i col != 0 with
    | none => none
    | some piv => eliminate q r cols (row + 1) (col + 1) (reduceColumn q (swapRows M piv row) row col)

/-- The values of the erased positions (R244), none if the system has not full column rank. -/
def solveErasures (C : CodeView) (Ep S0 : List Nat) : Option (List Nat) :=
  match eliminate C.q C.r Ep.length 0 0 (erasureSystem C Ep S0) with
  | some M => some (tabulate Ep.length fun c => matAt M c Ep.length)
  | none => none

/-- `y[Ep[c]] <- x[c]` for every c (R244). -/
def fillPositions (y : List Nat) : List Nat → List Nat → List Nat
  | e :: es, x :: xs => fillPositions (y.set e x) es xs
  | _, _ => y

/-- `search(S)` (R248): the first column j, and a in [1, q), with S = a * H[:, j]. -/
def searchError (C : CodeView) (S : List Nat) : Option (Nat × Nat) :=
  firstSome C.n fun j => firstSome C.q fun a =>
    if 1 ≤ a && (List.range C.r).all (fun i => at0 S i == mulQ C.q a (matAt C.H i j)) then some (j, a) else none

/-- The working variables of HDEC that its outputs are read from. -/
structure Decoding where
  /-- the padded word -/
  y : List Nat
  /-- the overall-parity symbol -/
  p : Nat
  /-- the located single error, position and magnitude -/
  loc : Option (Nat × Nat)
  /-- the status flags -/
  flags : DStat
  deriving DecidableEq, Repr

/-- Steps 1 and 2 (R242 to R244): the known word with its erasures filled where the system is solved. -/
def resolveErasures (C : CodeView) (inw eras : List Nat) : Decoding :=
  let y := paddedWord C inw eras
  let Ep := erasedPositions C inw eras
  let p := if C.extended then at0 (knownWord C inw eras) C.n else 0
  let flags := { DStat.clear with erased := !Ep.isEmpty, parityErased := parityErased C inw eras }
  if Ep.isEmpty then { y := y, p := p, loc := none, flags := flags }
  else
    match solveErasures C Ep (syndrome C y) with
    | some x => { y := fillPositions y Ep x, p := p, loc := none, flags := { flags with erasOk := true } }
    | none => { y := y, p := p, loc := none, flags := { flags with erasFail := true } }

/-- `y[j] <- y[j] -q a`. -/
def subtractAt (C : CodeView) (y : List Nat) (j a : Nat) : List Nat := y.set j (subQ C.q (at0 y j) a)

/-- Steps 4 and 5 of Classic and Shortened (R247, R249); S1 is the syndrome of the filled word. -/
def correctClassic (C : CodeView) (S1 : List Nat) (D : Decoding) : Decoding :=
  if isZero S1 then D
  else
    match searchError C S1 with
    | some (j, a) =>
      if j < C.s then
        { D with loc := some (j, a), flags := { D.flags with punctured := true, detectOnly := true } }
      else
        { D with y := subtractAt C D.y j a, loc := some (j, a), flags := { D.flags with corrected := true } }
    | none => { D with flags := { D.flags with detectOnly := true } }

/-- `par` (R250): the overall parity of the filled word with its parity symbol. -/
def parityCheck (C : CodeView) (D : Decoding) : Nat := (sumBelow C.n (fun j => at0 D.y j) + D.p) % C.q

/-- Extended with a known parity symbol (R250). -/
def correctExtended (C : CodeView) (S1 : List Nat) (D : Decoding) : Decoding :=
  if isZero S1 then
    if parityCheck C D = 0 then D
    else { D with p := overallParity C D.y, flags := { D.flags with parityFixed := true } }
  else if parityCheck C D = 0 then
    { D with flags := { D.flags with detectOnly := true, doubleDetect := true } }
  else
    match searchError C S1 with
    | some (j, a) =>
      let y := subtractAt C D.y j a
      { y := y, p := overallParity C y, loc := some (j, a), flags := { D.flags with corrected := true } }
    | none => { D with flags := { D.flags with detectOnly := true } }

/-- Steps 4 and 5 of every variant (R247, R250, R251). -/
def correctError (C : CodeView) (S1 : List Nat) (D : Decoding) : Decoding :=
  if C.extended then
    if D.flags.parityErased then
      let D' := correctClassic C S1 D
      { D' with p := overallParity C D'.y }
    else correctExtended C S1 D
  else correctClassic C S1 D

/-- The whole decode (R242 to R251), and the syndrome S1 of the filled word (R246). -/
def decodeWord (C : CodeView) (inw eras : List Nat) : Decoding × List Nat :=
  let D := resolveErasures C inw eras
  let S1 := syndrome C D.y
  (correctError C S1 D, S1)

end Sys2Proof.Machine
end

