-- ==== Sys2Proof/Machine/Flags.lean ====
section
/-! DEFINITION. The status words as the bus reads them (spec/10_state.md R32, R33, R35, R37), the error code numbers
(spec/60_exceptions.md R410), the details of an error (R411) and the interrupt line (R420). -/

namespace Sys2Proof.Machine

/-- A flag at a bit position. -/
def bitAt (b : Bool) (i : Nat) : Word := if b then 1#32 <<< i else 0

/-- CTRL (R32): IE at bit 0; SRST and bits 31:2 read 0. -/
def ctrlWord (ie : Bool) : Word := bitAt ie 0

/-- STATUS (R33); bits 31:6 read 0. -/
def statusWord (t : Status) : Word :=
  bitAt t.busy 0 ||| bitAt t.done 1 ||| bitAt t.err 2 ||| bitAt t.fvalid 3 ||| bitAt t.cvalid 4 ||| bitAt t.wob 5

/-- A write to STATUS (R33): a 1 clears DONE, ERR or WOB; BUSY, FVALID, CVALID and bits 31:6 ignore it. -/
def statusW1C (t : Status) (v : Word) : Status :=
  { t with done := t.done && !v.getLsbD 1, err := t.err && !v.getLsbD 2, wob := t.wob && !v.getLsbD 5 }

/-- DSTAT (R37); bits 31:12 read 0. -/
def dstatWord (d : DStat) : Word :=
  bitAt d.erased 0 ||| bitAt d.erasOk 1 ||| bitAt d.erasFail 2 ||| bitAt d.corrected 3 ||| bitAt d.detectOnly 4 |||
    bitAt d.parityFixed 5 ||| bitAt d.doubleDetect 6 ||| bitAt d.punctured 7 ||| bitAt d.parityErased 8 |||
    bitAt d.bszero 9 ||| bitAt d.lmismatch 10 ||| bitAt d.buncorr 11

/-- The code numbers of R410. -/
def errCodeNat : ErrCode → Nat
  | .noError => 0
  | .illegalCommand => 1
  | .incorrectCharacteristic => 2
  | .incorrectDegree => 3
  | .incorrectPolynomial => 4
  | .fieldConstruction => 5
  | .fieldNotValid => 6
  | .operandRange => 7
  | .divisionByZero => 8
  | .construction => 9
  | .shapeOrOrthogonality => 10
  | .invalidShortening => 11
  | .codeNotValid => 12
  | .uncorrectable => 13
  | .notBinary => 14
  | .capacity => 15

/-- ERRCODE as read: the code in bits 7:0, 0 above (R35). -/
def errCodeWord (c : ErrCode) : Word := toWord (errCodeNat c)

/-- `(source << 16) | index`, the detail of OPERAND_RANGE and SHAPE_OR_ORTHOGONALITY (R411). -/
def pairInfo (source index : Nat) : Word := (toWord source <<< 16) ||| toWord index

/-- The interrupt line (R420): `STATUS.DONE and CTRL.IE`. -/
def irq (s : State) : Bool := s.status.done && s.ie

end Sys2Proof.Machine
end

