-- ==== Sys2Proof/Machine/Ops.lean ====
section
/-! DEFINITION. The operations over memory and registers that every command shares: the window memory
(spec/10_state.md R45, spec/20_memory.md R83), starting and completing a command (spec/10_state.md R34,
spec/60_exceptions.md R401, R402), acknowledging it, and the resets (spec/70_reset_and_hazards.md R450 to R452). -/

namespace Sys2Proof.Machine

/-! ### Window memory -/

/-- The byte written at an offset since the last hardware reset, none if there is none. -/
def Memory.read (mem : Memory) (a : Nat) : Option Byte := mem.lookup a

/-- A byte written; offsets stay strictly rising. -/
def Memory.write : Memory → Nat → Byte → Memory
  | [], a, v => [(a, v)]
  | (b, w) :: rest, a, v =>
    if a < b then (a, v) :: (b, w) :: rest
    else if a = b then (a, v) :: rest
    else (b, w) :: Memory.write rest a v

/-- The canonical form: offsets strictly rising. An unlisted offset reads as no value, which no entry equals. -/
def Memory.wf (mem : Memory) : Bool := decide (mem.Pairwise fun x y => x.1 < y.1)

/-- A word written at an offset: byte lane 0 is bits 7:0 (R83). -/
def Memory.writeWord (mem : Memory) (a : Nat) (v : Word) : Memory :=
  Memory.write (Memory.write (Memory.write (Memory.write mem a (v.extractLsb' 0 8)) (a + 1) (v.extractLsb' 8 8))
    (a + 2) (v.extractLsb' 16 8)) (a + 3) (v.extractLsb' 24 8)

/-- Words written from an offset up. -/
def Memory.writeWords (mem : Memory) (a : Nat) : List Word → Memory
  | [] => mem
  | v :: vs => Memory.writeWords (Memory.writeWord mem a v) (a + 4) vs

/-- The byte an offset of a window holds: the one written, or the free value of this reset (log entry 2). -/
def State.byteAt (s : State) (a : Nat) : Byte := (Memory.read s.win a).getD (Config.freeWindowByte s.epoch a)

/-- The word at an offset, little-endian (R83). -/
def State.wordAt (s : State) (a : Nat) : Word :=
  s.byteAt (a + 3) ++ s.byteAt (a + 2) ++ s.byteAt (a + 1) ++ s.byteAt a

/-- The region offset of a window (R45, R81): 0x1000 bytes each, in order. -/
def winBase : Win → Nat
  | .inp => 0x1000
  | .out => 0x2000
  | .info => 0x3000
  | .syn => 0x4000
  | .lambda => 0x5000
  | .pos => 0x6000
  | .eras => 0x7000
  | .pa => 0x8000
  | .pb => 0x9000
  | .pr0 => 0xA000
  | .pr1 => 0xB000
  | .pr2 => 0xC000

/-- `WIN[i]` read (R8, R45). -/
def winWord (s : State) (w : Win) (i : Nat) : Word := s.wordAt (winBase w + 4 * i)

/-- `WIN[0..n-1]` read as numbers. -/
def winNats (s : State) (w : Win) (n : Nat) : List Nat := (List.range n).map fun i => (winWord s w i).toNat

/-- `WIN[i] <- v` (R8, R45). -/
def setWinWord (s : State) (w : Win) (i : Nat) (v : Word) : State :=
  { s with win := Memory.writeWord s.win (winBase w + 4 * i) v }

/-- `WIN[0..len-1] <- vs`; words beyond keep their contents (R45). -/
def setWin (s : State) (w : Win) (vs : List Nat) : State :=
  { s with win := Memory.writeWords s.win (winBase w) (vs.map toWord) }

/-! ### Completion of a command -/

/-- The completion event's part that every command shares (R401): ERRCODE, ERRINFO, DONE, ERR, BUSY. An error of any
command ends here too (R402): it is the core's one way to take an exception. -/
def complete (code : ErrCode) (info : Word) (s : State) : State :=
  { s with
    errcode := code
    errinfo := if code = .noError then 0 else info
    status := { s.status with done := true, err := code != .noError, busy := false } }

/-- `raise CmdError(CODE, info)` (R402) from the state with the command's on-start effects. -/
def raiseError (e : CmdError) (s : State) : State := complete e.code e.info s

/-- The end of a command: its outputs with code NONE, or its error with no output written (R401, R402). `s` is the
state the command started from. -/
def conclude (s : State) (r : Except CmdError State) : Host.Outcome State Fault Refusal :=
  match r with
  | .ok t => .next (complete .noError 0 t)
  | .error e => .next (raiseError e s)

/-- What the host does to acknowledge a completion (R426): a write to STATUS (R33). -/
def ackStatus (v : Word) (s : State) : State := { s with status := statusW1C s.status v }

/-! ### Start of a command -/

/-- What CBUILD does on start (spec/42_code_encoder.md R201): CVALID and the code snapshot are cleared, H becomes
unspecified (R51). -/
def clearCode (s : State) : State :=
  { s with status := { s.status with cvalid := false }, cnB := 0, ckB := 0, cvarB := 0, csB := 0, hmat := none }

/-- What FBUILD does on start (spec/40_field.md R151): FVALID, CVALID and both snapshots are cleared, the tables become
unspecified (R50). -/
def clearField (s : State) : State :=
  { clearCode s with
    status := { s.status with fvalid := false, cvalid := false }
    fsize := 0, fqB := 0, fmB := 0, elem := none, v2i := none }

/-- The on-start effects of the command a word encodes; they are visible while BUSY = 1 (log entry 9). -/
def onStart (w : Word) (s : State) : State :=
  match decode w with
  | .ok .fbuild => clearField s
  | .ok .cbuild => clearCode s
  | _ => s

/-- The start of a command by an accepted CMD write (R34): the word is stored, BUSY is set, DONE, ERR, ERRCODE and
ERRINFO are cleared, and the command begins. -/
def startCommand (w : Word) (s : State) : State :=
  onStart w
    { s with
      cmd := w
      status := { s.status with busy := true, done := false, err := false }
      errcode := .noError
      errinfo := 0 }

/-- An accepted CMD write, with the draw of how many host steps precede the completion (R463, R421; log entry 5). -/
def acceptCommand (w : Word) (s : State) : State :=
  { startCommand w s with delay := Config.freeDelay s.draws, draws := s.draws + 1 }

/-! ### Resets -/

/-- Soft reset (R452): every register at its reset value, windows unchanged, the running command abandoned. What is not
the core's (parameters, the pin, host steps, response, counters) stays. -/
def softReset (s : State) : State :=
  { State.reset with
    params := s.params, rstN := s.rstN, win := s.win, epoch := s.epoch, draws := s.draws, host := s.host, resp := s.resp }

/-- Hardware reset (R450, R451): as a soft reset, and every window word unspecified anew, with rst_n at 0. -/
def hardReset (s : State) : State :=
  { softReset s with rstN := false, win := [], epoch := s.epoch + 1, resp := .idle }

/-- rst_n falls (R450): the hardware reset. A pin that is 0 already does not fall, so nothing happens then. -/
def assertReset (s : State) : State := if s.rstN then hardReset s else s

/-- rst_n rises (R450): the core, held at its reset values until now, is idle and waits for a CMD write. -/
def releaseReset (s : State) : State := { s with rstN := true }

end Sys2Proof.Machine
end

