-- ==== Sys2Proof/Machine/Operands.lean ====
section
/-! DEFINITION. The implicit operands of the commands (spec/30_encoding.md R121, R123) and their checks
(spec/60_exceptions.md R403, R411, R412). -/

namespace Sys2Proof.Machine

/-- A check of the check phase: the error if `bad` holds. -/
def failIf (bad : Bool) (code : ErrCode) (info : Word) : Except CmdError Unit :=
  if bad then .error { code := code, info := info } else .ok ()

/-- A range check over `count` words: the error names the smallest bad index (R403). -/
def failAtFirst (count : Nat) (bad : Nat → Bool) (code : ErrCode) (info : Nat → Word) : Except CmdError Unit :=
  match firstBelow count bad with
  | some i => .error { code := code, info := info i }
  | none => .ok ()

/-- The built field (spec/40_field.md R150). The tables are absent only while FVALID = 0, when no command reads them;
the empty tables then are never used (log entry 8). -/
def fieldView (s : State) : FieldView :=
  { q := s.fqB.toNat, m := s.fmB.toNat, size := s.fsize.toNat, elem := s.elem.getD [], v2i := s.v2i.getD [] }

/-- The built code (spec/42_code_encoder.md R200). -/
def codeView (s : State) : CodeView :=
  { q := s.fqB.toNat, n := s.cnB.toNat, k := s.ckB.toNat, var := s.cvarB.toNat, s := s.csB.toNat, H := s.hmat.getD [] }

/-- FIELD_NOT_VALID while FVALID = 0 (R150, R412). -/
def needField (s : State) : Except CmdError Unit := failIf (!s.status.fvalid) .fieldNotValid 0

/-- FIELD_NOT_VALID, then CODE_NOT_VALID while CVALID = 0 (R200, R412). -/
def needCode (s : State) : Except CmdError Unit := do
  needField s
  failIf (!s.status.cvalid) .codeNotValid 0

/-- NOT_BINARY unless the built field has q = 2 (spec/41_polynomial.md R188, spec/44_bch.md R280). -/
def needBinary (s : State) : Except CmdError Unit := do
  needField s
  failIf (s.fqB != 2) .notBinary s.fqB

/-- OPA as an element index: OPERAND_RANGE source 1 (R171). -/
def checkOpa (s : State) : Except CmdError Unit :=
  failIf (s.fsize.toNat ≤ s.opa.toNat) .operandRange (pairInfo 1 0)

/-- OPB as an element index: OPERAND_RANGE source 2 (R171). -/
def checkOpb (s : State) : Except CmdError Unit :=
  failIf (s.fsize.toNat ≤ s.opb.toNat) .operandRange (pairInfo 2 0)

/-- The checks of a command on one element OPA. -/
def needElement (s : State) : Except CmdError Unit := do
  needField s
  checkOpa s

/-- The checks of a command on two elements OPA and OPB (R171). -/
def needElements (s : State) : Except CmdError Unit := do
  needElement s
  checkOpb s

/-- OPE, signed two's complement (spec/10_state.md R42). -/
def exponent (s : State) : Int := s.ope.toInt

/-- VREG[0..m-1] as digits, each checked against q: OPERAND_RANGE source 3 (spec/40_field.md R178). -/
def checkVreg (s : State) : Except CmdError Unit :=
  failAtFirst s.fmB.toNat (fun d => s.fqB.toNat ≤ (s.vreg.getD d 0).toNat) .operandRange (pairInfo 3)

/-- The vector VREG[0..m-1] (R178). -/
def vregVector (s : State) : List Nat := tabulate s.fmB.toNat fun d => (s.vreg.getD d 0).toNat

/-- Words of a window checked against a bound: OPERAND_RANGE with the window's source number (R411). -/
def checkWindow (s : State) (w : Win) (count bound source : Nat) : Except CmdError Unit :=
  failAtFirst count (fun i => bound ≤ (winWord s w i).toNat) .operandRange (pairInfo source)

/-- The checks of a polynomial command without operand B (R188, R195): PALEN and the words of PA. -/
def needPolyA (s : State) : Except CmdError Unit := do
  needBinary s
  failIf (s.params.plen < s.palen.toNat) .capacity 6
  checkWindow s .pa s.palen.toNat s.fsize.toNat 9

/-- The checks of a polynomial command with both operands, in the order of R188. -/
def needPolyAB (s : State) : Except CmdError Unit := do
  needBinary s
  failIf (s.params.plen < s.palen.toNat) .capacity 6
  failIf (s.params.plen < s.pblen.toNat) .capacity 7
  checkWindow s .pa s.palen.toNat s.fsize.toNat 9
  checkWindow s .pb s.pblen.toNat s.fsize.toNat 10

/-- Operand A (R188). -/
def polyA (s : State) : List Nat := winNats s .pa s.palen.toNat

/-- Operand B (R188). -/
def polyB (s : State) : List Nat := winNats s .pb s.pblen.toNat

/-- A result polynomial written to PR0 and PR0LEN (R185). -/
def putPr0 (s : State) (p : List Nat) : State := { setWin s .pr0 p with pr0len := toWord p.length }

/-- A result polynomial written to PR1 and PR1LEN (R185). -/
def putPr1 (s : State) (p : List Nat) : State := { setWin s .pr1 p with pr1len := toWord p.length }

/-- A result polynomial written to PR2 and PR2LEN (R185). -/
def putPr2 (s : State) (p : List Nat) : State := { setWin s .pr2 p with pr2len := toWord p.length }

/-- The checks on the erasure list (spec/42_code_encoder.md R213): CAPACITY 5, then OPERAND_RANGE source 8. -/
def checkErasures (s : State) : Except CmdError Unit := do
  failIf (s.params.nbuf < s.neras.toNat) .capacity 5
  checkWindow s .eras s.neras.toNat (codeView s).wireLen 8

/-- The received wire word IN[0..W-1] (R213). -/
def wireIn (s : State) : List Nat := winNats s .inp (codeView s).wireLen

/-- The listed erasures ERAS[0..NERAS-1] (R213). -/
def erasList (s : State) : List Nat := winNats s .eras s.neras.toNat

/-- NCHK (spec/44_bch.md R280). -/
def checkBchLength (s : State) : Except CmdError Unit := do
  failIf (decide (s.bn.toNat < 1) || decide (s.fsize.toNat - 1 < s.bn.toNat)) .construction 5
  failIf (s.params.nbuf < s.bn.toNat) .capacity 3

/-- TCHK (R280). -/
def checkBchCapacity (s : State) : Except CmdError Unit := do
  failIf (s.bt.toNat < 1) .construction 6
  failIf (s.params.tmax < s.bt.toNat) .capacity 4

/-- FIELD, BIN, NCHK, TCHK, INCHK (R280), the checks of BSYN and BDEC. -/
def needBchWord (s : State) : Except CmdError Unit := do
  needBinary s
  checkBchLength s
  checkBchCapacity s
  checkWindow s .inp s.bn.toNat 2 4

/-- The received bits IN[0..n-1] (R281). -/
def bchIn (s : State) : List Nat := winNats s .inp s.bn.toNat

end Sys2Proof.Machine
end

