-- ==== Sys2Proof/Machine/Bus.lean ====
section
/-! DEFINITION. The register bus: what stands at each offset (spec/20_memory.md R81), reading and writing it
(spec/10_state.md R30 to R54), and one host step (spec/30_encoding.md R125). -/

namespace Sys2Proof.Machine

/-- Control, status, result and snapshot registers by offset (R81). -/
def resultRegs : List (Nat × Reg) :=
  [(0x000, Reg.id), (0x004, Reg.ctrl), (0x008, Reg.status), (0x00C, Reg.cmd), (0x010, Reg.errcode),
   (0x014, Reg.errinfo), (0x018, Reg.dstat), (0x01C, Reg.result0), (0x020, Reg.result1),
   (0x024, Reg.fsize), (0x028, Reg.fqB), (0x02C, Reg.fmB), (0x030, Reg.cnB), (0x034, Reg.ckB),
   (0x038, Reg.cvarB), (0x03C, Reg.csB)]

/-- Operand, length and matrix-port registers by offset (R81). -/
def operandRegs : List (Nat × Reg) :=
  [(0x040, Reg.opa), (0x044, Reg.opb), (0x048, Reg.ope),
   (0x04C, Reg.llen), (0x050, Reg.lreg), (0x054, Reg.neras), (0x058, Reg.palen), (0x05C, Reg.pblen),
   (0x060, Reg.pr0len), (0x064, Reg.pr1len), (0x068, Reg.pr2len),
   (0x06C, Reg.mrow), (0x070, Reg.mcol), (0x074, Reg.hdata), (0x078, Reg.gdata)]

/-- Configuration registers by offset (R81). -/
def configRegs : List (Nat × Reg) :=
  [(0x080, Reg.fq), (0x084, Reg.fm), (0x088, Reg.cn), (0x08C, Reg.ck), (0x090, Reg.cvar), (0x094, Reg.cs),
   (0x098, Reg.bn), (0x09C, Reg.bk), (0x0A0, Reg.bt), (0x0A4, Reg.bfcr)]

/-- The single-word registers by offset (R81). -/
def regTable : List (Nat × Reg) := resultRegs ++ operandRegs ++ configRegs

/-- The windows in address order (R45). -/
def winOrder : List Win := [.inp, .out, .info, .syn, .lambda, .pos, .eras, .pa, .pb, .pr0, .pr1, .pr2]

/-- What stands at a 4-aligned offset (R81): window words at index P_NBUF and above, VREG and POLY words beyond P_MMAX
and every offset not named are reserved (R54; log entry 12). -/
def locate (p : Params) (off : Nat) : Loc :=
  match regTable.lookup off with
  | some r => .reg r
  | none =>
    if 0x0C0 ≤ off ∧ off < 0x0C0 + 4 * p.mmax then .vreg ((off - 0x0C0) / 4)
    else if 0x100 ≤ off ∧ off < 0x100 + 4 * (p.mmax + 1) then .poly ((off - 0x100) / 4)
    else if 0x1000 ≤ off then
      match winOrder[off / 0x1000 - 1]? with
      | some w => if off % 0x1000 / 4 < p.nbuf then .window w (off % 0x1000 / 4) else .reserved
      | none => .reserved
    else .reserved

/-- ID (R31): "GFC1". -/
def idValue : Word := 0x47464331

/-- The matrix read port HDATA (R49). -/
def hdataWord (s : State) : Word :=
  if s.status.cvalid && s.mrow.toNat < (codeView s).r && s.mcol.toNat < (codeView s).n then
    toWord (matAt (codeView s).H s.mrow.toNat s.mcol.toNat)
  else 0

/-- The matrix read port GDATA (R49). -/
def gdataWord (s : State) : Word :=
  if s.status.cvalid && s.mrow.toNat < (codeView s).k && s.mcol.toNat < (codeView s).n then
    toWord (genAt (codeView s).q (codeView s).k (codeView s).H s.mrow.toNat s.mcol.toNat)
  else 0

/-- The value of a register. -/
def readReg (s : State) : Reg → Word
  | .id => idValue
  | .ctrl => ctrlWord s.ie
  | .status => statusWord s.status
  | .cmd => s.cmd
  | .errcode => errCodeWord s.errcode
  | .errinfo => s.errinfo
  | .dstat => dstatWord s.dstat
  | .result0 => s.result0
  | .result1 => s.result1
  | .fsize => s.fsize
  | .fqB => s.fqB
  | .fmB => s.fmB
  | .cnB => s.cnB
  | .ckB => s.ckB
  | .cvarB => s.cvarB
  | .csB => s.csB
  | .opa => s.opa
  | .opb => s.opb
  | .ope => s.ope
  | .llen => s.llen
  | .lreg => s.lreg
  | .neras => s.neras
  | .palen => s.palen
  | .pblen => s.pblen
  | .pr0len => s.pr0len
  | .pr1len => s.pr1len
  | .pr2len => s.pr2len
  | .mrow => s.mrow
  | .mcol => s.mcol
  | .hdata => hdataWord s
  | .gdata => gdataWord s
  | .fq => s.fq
  | .fm => s.fm
  | .cn => s.cn
  | .ck => s.ck
  | .cvar => s.cvar
  | .cs => s.cs
  | .bn => s.bn
  | .bk => s.bk
  | .bt => s.bt
  | .bfcr => s.bfcr

/-- The value at a location while BUSY = 0; reserved offsets read 0 (R54). -/
def readLoc (s : State) : Loc → Word
  | .reg r => readReg s r
  | .vreg d => s.vreg.getD d 0
  | .poly i => s.poly.getD i 0
  | .window w i => winWord s w i
  | .reserved => 0

/-- How a read answers while BUSY = 1 (R53). -/
inductive BusyRead
  /-- the location's value -/
  | value
  /-- 0 -/
  | zero
  /-- an unspecified value -/
  | unspecified
  deriving DecidableEq, Repr

/-- R53 for a register: control, configuration and matrix-port index registers read their value, ERRCODE and ERRINFO
read 0, every other register is unspecified. -/
def busyReadReg : Reg → BusyRead
  | .id | .ctrl | .status | .cmd => .value
  | .opa | .opb | .ope => .value
  | .fq | .fm | .cn | .ck | .cvar | .cs => .value
  | .bn | .bk | .bt | .bfcr => .value
  | .mrow | .mcol | .neras | .palen | .pblen => .value
  | .errcode | .errinfo => .zero
  | .dstat | .result0 | .result1 => .unspecified
  | .fsize | .fqB | .fmB | .cnB | .ckB | .cvarB | .csB => .unspecified
  | .llen | .lreg | .pr0len | .pr1len | .pr2len => .unspecified
  | .hdata | .gdata => .unspecified

/-- R53 for a location: the input-only windows ERAS, PA and PB read their value; reserved offsets read 0 at all times
(R54; log entry 12). -/
def busyReadLoc : Loc → BusyRead
  | .reg r => busyReadReg r
  | .vreg _ => .value
  | .poly _ => .value
  | .window .eras _ => .value
  | .window .pa _ => .value
  | .window .pb _ => .value
  | .window _ _ => .unspecified
  | .reserved => .zero

/-- A legal bus read of a location: its only effects are the response and, for an unspecified value, the draw (R84). -/
def busRead (s : State) (l : Loc) : State :=
  if s.status.busy then
    match busyReadLoc l with
    | .value => { s with resp := .data (readLoc s l) }
    | .zero => { s with resp := .data 0 }
    | .unspecified => { s with resp := .data (Config.freeBusData s.draws), draws := s.draws + 1 }
  else { s with resp := .data (readLoc s l) }

/-- A write to CTRL (R32, R452): SRST = 1 resets the core, IE included; otherwise IE is bit 0. -/
def writeCtrl (s : State) (v : Word) : State := if v.getLsbD 1 then softReset s else { s with ie := v.getLsbD 0 }

/-- A write to a register while BUSY = 0. Read-only registers ignore it. -/
def writeReg (s : State) (v : Word) : Reg → State
  | .ctrl => writeCtrl s v
  | .status => ackStatus v s
  | .cmd => acceptCommand v s
  | .opa => { s with opa := v }
  | .opb => { s with opb := v }
  | .ope => { s with ope := v }
  | .llen => { s with llen := v }
  | .neras => { s with neras := v }
  | .palen => { s with palen := v }
  | .pblen => { s with pblen := v }
  | .mrow => { s with mrow := v }
  | .mcol => { s with mcol := v }
  | .fq => { s with fq := v }
  | .fm => { s with fm := v }
  | .cn => { s with cn := v }
  | .ck => { s with ck := v }
  | .cvar => { s with cvar := v }
  | .cs => { s with cs := v }
  | .bn => { s with bn := v }
  | .bk => { s with bk := v }
  | .bt => { s with bt := v }
  | .bfcr => { s with bfcr := v }
  | .id | .errcode | .errinfo | .dstat | .result0 | .result1 => s
  | .fsize | .fqB | .fmB | .cnB | .ckB | .cvarB | .csB => s
  | .lreg | .pr0len | .pr1len | .pr2len | .hdata | .gdata => s

/-- The host may write the window (R45). -/
def hostWritable : Win → Bool
  | .inp | .info | .syn | .lambda | .eras | .pa | .pb => true
  | .out | .pos | .pr0 | .pr1 | .pr2 => false

/-- A write to a location while BUSY = 0. -/
def writeLoc (s : State) (v : Word) : Loc → State
  | .reg r => writeReg s v r
  | .vreg d => { s with vreg := s.vreg.setIfInBounds d v }
  | .poly i => { s with poly := s.poly.setIfInBounds i v }
  | .window w i => if hostWritable w then setWinWord s w i v else s
  | .reserved => s

/-- A write that is ignored because BUSY = 1 (R53). -/
def loseWrite (s : State) : State := { s with status := { s.status with wob := true } }

/-- A legal bus write of a location: while BUSY = 1 only CTRL and STATUS act, any other write is lost and sets WOB
(R53). -/
def busWrite (s : State) (l : Loc) (v : Word) : State :=
  let t :=
    if s.status.busy then
      match l with
      | .reg .ctrl => writeCtrl s v
      | .reg .status => ackStatus v s
      | _ => loseWrite s
    else writeLoc s v l
  { t with resp := .written }

/-- A bus error response to a read: unspecified data, no effect (R82, R404). -/
def readError (s : State) : State :=
  { s with resp := .error (some (Config.freeBusData s.draws)), draws := s.draws + 1 }

/-- A bus error response to a write: no effect (R82, R404). -/
def writeError (s : State) : State := { s with resp := .error none }

/-- An access made while rst_n = 0: it is not answered and has no effect (spec/70_reset_and_hazards.md R450). -/
def noAnswer (s : State) : State := { s with resp := .unanswered }

/-- `MemRead(addr, n)` (R8, R80, R82; R450 while rst_n = 0). -/
def memRead (s : State) (addr width : Nat) : Host.Outcome State Fault Refusal :=
  if inRegion s.params addr then
    if !s.rstN then .next (noAnswer s)
    else if legalAccess (addr - s.params.base) width then .next (busRead s (locate s.params (addr - s.params.base)))
    else .next (readError s)
  else .fault (.outsideRegion addr)

/-- `MemWrite(addr, n, v)` (R8, R80, R82; R450 while rst_n = 0). -/
def memWrite (s : State) (addr width : Nat) (v : Word) : Host.Outcome State Fault Refusal :=
  if inRegion s.params addr then
    if !s.rstN then .next (noAnswer s)
    else if legalAccess (addr - s.params.base) width then .next (busWrite s (locate s.params (addr - s.params.base)) v)
    else .next (writeError s)
  else .fault (.outsideRegion addr)

/-- A step of the list that is an edge of rst_n, not an access of the host. -/
def isResetEdge : BusStep → Bool
  | .resetLow | .resetHigh => true
  | .read _ _ | .write _ _ _ | .wait => false

/-- The steps to come while the host waits for an answer that rst_n = 0 withholds: the next edge of rst_n, which no host
step holds back, then WAIT, then the other steps in their order (log entry 16). -/
def waitThroughReset (rest : List BusStep) : List BusStep :=
  match rest.find? isResetEdge with
  | some e => e :: .wait :: rest.erase e
  | none => .wait :: rest

/-- One poll of WAIT (R125): STATUS is read, and the host polls again while it reads BUSY = 1 or gets no answer. -/
def pollStatus (s : State) : State :=
  if !s.rstN then { noAnswer s with host := waitThroughReset s.host }
  else if s.status.busy then { busRead s (.reg .status) with host := .wait :: s.host }
  else busRead s (.reg .status)

/-- One host step; `s` has it removed from the steps to come. -/
def hostStep (s : State) : BusStep → Host.Outcome State Fault Refusal
  | .read addr width => memRead s addr width
  | .write addr width v => memWrite s addr width v
  | .wait => .next (pollStatus s)
  | .resetLow => .next (assertReset s)
  | .resetHigh => .next (releaseReset s)

end Sys2Proof.Machine
end

