-- ==== Sys2Proof/Machine/FieldUnit.lean ====
section
/-! DEFINITION. NOP, FBUILD and the field element commands (spec/40_field.md R151 to R178). -/

namespace Sys2Proof.Machine

/-- NOP (R170): completes with NONE and writes nothing else. -/
def execNop (s : State) : Host.Outcome State Fault Refusal := conclude s (.ok s)

/-- The modulus coefficients POLY[0..m] (spec/10_state.md R43). -/
def modulus (s : State) : List Nat := tabulate (s.fm.toNat + 1) fun i => (s.poly.getD i 0).toNat

/-- The checks of FBUILD before the table is built, in the order of R151. -/
def checkFieldConfig (s : State) : Except CmdError Unit := do
  failIf (decide (s.fq.toNat < 2) || !isPrime s.fq.toNat) .incorrectCharacteristic s.fq
  failIf (decide (s.fm.toNat < 1) || decide (s.params.mmax < s.fm.toNat)) .incorrectDegree s.fm
  failIf (s.params.fsmax < s.fq.toNat ^ s.fm.toNat) .capacity 1
  failAtFirst (s.fm.toNat + 1) (fun i => s.fq.toNat ≤ at0 (modulus s) i) .incorrectPolynomial toWord
  failIf (at0 (modulus s) s.fm.toNat == 0) .incorrectPolynomial s.fm

/-- The element table FBUILD builds (R152, R153). -/
def newTable (s : State) : List (List Nat) :=
  buildTable s.fq.toNat s.fm.toNat (reduction s.fq.toNat s.fm.toNat (modulus s))

/-- Commit of FBUILD (R155). -/
def commitField (s : State) (table : List (List Nat)) : State :=
  { s with
    elem := some table
    v2i := some (inverseMap table)
    fqB := s.fq
    fmB := s.fm
    fsize := toWord (s.fq.toNat ^ s.fm.toNat)
    status := { s.status with fvalid := true } }

/-- The distinctness check (R154). -/
def checkDistinct (table : List (List Nat)) : Except CmdError Unit :=
  match firstRepeat table with
  | some i => .error { code := .fieldConstruction, info := toWord i }
  | none => .ok ()

/-- FBUILD (R151 to R155). -/
def execFbuild (s : State) : Host.Outcome State Fault Refusal :=
  let s0 := clearField s
  conclude s0 do
    checkFieldConfig s0
    checkDistinct (newTable s0)
    pure (commitField s0 (newTable s0))

/-- RESULT0 written with an element index. -/
def putResult0 (s : State) (v : Nat) : State := { s with result0 := toWord v }

/-- FADD (R171). -/
def execFadd (s : State) : Host.Outcome State Fault Refusal :=
  conclude s do
    needElements s
    pure (putResult0 s (gadd (fieldView s) s.opa.toNat s.opb.toNat))

/-- FSUB (R172). -/
def execFsub (s : State) : Host.Outcome State Fault Refusal :=
  conclude s do
    needElements s
    pure (putResult0 s (gsub (fieldView s) s.opa.toNat s.opb.toNat))

/-- FMUL (R173). -/
def execFmul (s : State) : Host.Outcome State Fault Refusal :=
  conclude s do
    needElements s
    pure (putResult0 s (gmul (fieldView s) s.opa.toNat s.opb.toNat))

/-- FDIV (R174). -/
def execFdiv (s : State) : Host.Outcome State Fault Refusal :=
  conclude s do
    needElements s
    failIf (s.opb == 0) .divisionByZero 0
    pure (putResult0 s (gdiv (fieldView s) s.opa.toNat s.opb.toNat))

/-- FPOW (R175). -/
def execFpow (s : State) : Host.Outcome State Fault Refusal :=
  conclude s do
    needElement s
    failIf (s.opa == 0 && decide (exponent s < 0)) .divisionByZero 0
    pure (putResult0 s (gpow (fieldView s) s.opa.toNat (exponent s)))

/-- FINV (R176). -/
def execFinv (s : State) : Host.Outcome State Fault Refusal :=
  conclude s do
    needElement s
    failIf (s.opa == 0) .divisionByZero 0
    pure (putResult0 s (ginv (fieldView s) s.opa.toNat))

/-- VREG after FI2V (R177): the vector's digits below m, 0 from m to P_MMAX - 1; the words from P_MMAX on do not exist
(log entry 12). -/
def vregOf (s : State) (v : List Nat) : Vector Word 16 :=
  Vector.ofFn fun d =>
    if d.val < s.fmB.toNat then toWord (at0 v d.val) else if d.val < s.params.mmax then 0 else s.vreg.getD d.val 0

/-- FI2V (R177). -/
def execFi2v (s : State) : Host.Outcome State Fault Refusal :=
  conclude s do
    needElement s
    pure { s with vreg := vregOf s (vec (fieldView s) s.opa.toNat) }

/-- FV2I (R178). -/
def execFv2i (s : State) : Host.Outcome State Fault Refusal :=
  conclude s do
    needField s
    checkVreg s
    pure (putResult0 s (idx (fieldView s) (vregVector s)))

end Sys2Proof.Machine
end

