-- ==== Sys2Proof/Machine/BchUnit.lean ====
section
/-! DEFINITION. BSYN, BM, CHIEN and BDEC (spec/44_bch.md R280 to R297). -/

namespace Sys2Proof.Machine

/-- BSYN (R281). -/
def execBsyn (s : State) : Host.Outcome State Fault Refusal :=
  conclude s do
    needBchWord s
    let S := bsyn (fieldView s) s.bn.toNat (bchIn s) s.bt.toNat s.bfcr.toNat
    pure { setWin s .syn S with result0 := if isZero S then 0 else 1 }

/-- A locator written to LAMBDA and LLEN, L to LREG (R284, R295). -/
def putLocator (s : State) (locator : List Nat) (L : Nat) : State :=
  { setWin s .lambda locator with llen := toWord locator.length, lreg := toWord L }

/-- BM (R284): BN and BFCR are not read. -/
def execBm (s : State) : Host.Outcome State Fault Refusal :=
  conclude s do
    needBinary s
    checkBchCapacity s
    checkWindow s .syn (2 * s.bt.toNat) s.fsize.toNat 6
    let r := berlekampMassey (fieldView s) (winNats s .syn (2 * s.bt.toNat)) (2 * s.bt.toNat)
    pure (putResult0 (putLocator s r.1 r.2) r.2)

/-- CHIEN (R290): BT and BFCR are not read. -/
def execChien (s : State) : Host.Outcome State Fault Refusal :=
  conclude s do
    needBinary s
    checkBchLength s
    failIf (s.params.nbuf < s.llen.toNat) .capacity 9
    checkWindow s .lambda s.llen.toNat s.fsize.toNat 7
    let P := chienPositions (fieldView s) s.bn.toNat (trim (winNats s .lambda s.llen.toNat))
    pure (putResult0 (setWin s .pos P) P.length)

/-- BDEC with every syndrome zero (R295 step 2): POS is not written. -/
def bdecClean (s : State) (S : List Nat) : State :=
  { putLocator (setWin (setWin s .syn S) .out (bchIn s)) [1] 0 with
    result0 := 0, result1 := 0, dstat := { DStat.clear with bszero := true } }

/-- BDEC's outputs once the locator and the positions are known (R295 steps 3 to 6). -/
def bdecLocated (s : State) (S locator : List Nat) (L : Nat) (P : List Nat) : State :=
  let tooMany := decide (s.bt.toNat < P.length)
  let word := if tooMany then bchIn s else flipBits (bchIn s) P
  let t := putLocator (setWin (setWin (setWin s .syn S) .pos P) .out word) locator L
  { t with
    result0 := toWord P.length
    result1 := toWord L
    dstat := { DStat.clear with lmismatch := P.length != L, buncorr := tooMany } }

/-- BDEC (R295 to R297): more than t located positions complete with UNCORRECTABLE, the outputs written. -/
def execBdec (s : State) : Host.Outcome State Fault Refusal :=
  match needBchWord s with
  | .error e => .next (raiseError e s)
  | .ok _ =>
    let F := fieldView s
    let S := bsyn F s.bn.toNat (bchIn s) s.bt.toNat s.bfcr.toNat
    if isZero S then .next (complete .noError 0 (bdecClean s S))
    else
      let r := berlekampMassey F S (2 * s.bt.toNat)
      let P := chienPositions F s.bn.toNat r.1
      let t := bdecLocated s S r.1 r.2 P
      if s.bt.toNat < P.length then .next (complete .uncorrectable (toWord P.length) t)
      else .next (complete .noError 0 t)

end Sys2Proof.Machine
end

