-- ==== Sys2Proof/Machine/CodeUnit.lean ====
section
/-! DEFINITION. CBUILD, ENC, SYND (spec/42_code_encoder.md R201 to R215) and HDEC (spec/43_syndrome_decoder.md R240 to
R252). -/

namespace Sys2Proof.Machine

/-- The checks of CBUILD, in the order of R201. -/
def checkCodeConfig (s : State) : Except CmdError Unit := do
  needField s
  failIf (decide (s.ck.toNat < 1) || decide (s.cn.toNat ≤ s.ck.toNat)) .construction 1
  failIf (s.cn.toNat - s.ck.toNat != s.fmB.toNat) .construction 2
  failIf ((s.fsize.toNat - 1) / (s.fqB.toNat - 1) < s.cn.toNat) .construction 3
  failIf (s.params.nbuf - 1 < s.cn.toNat) .capacity 2
  failIf (2 < s.cvar.toNat) .construction 4
  failIf (s.cvar == 1 && decide (min s.cn.toNat s.ck.toNat ≤ s.cs.toNat)) .invalidShortening s.cs

/-- H as CBUILD builds it (R203). -/
def newParity (s : State) : List (List Nat) := parityMatrix (fieldView s) s.cn.toNat s.ck.toNat

/-- The orthogonality check (R205). It never fails, and is kept as the rule states it (log entry 11). -/
def checkOrthogonal (s : State) (H : List (List Nat)) : Except CmdError Unit :=
  match orthoFailure s.fqB.toNat s.cn.toNat s.ck.toNat H with
  | some il => .error { code := .shapeOrOrthogonality, info := pairInfo il.1 il.2 }
  | none => .ok ()

/-- Commit of CBUILD (R206). -/
def commitCode (s : State) (H : List (List Nat)) : State :=
  { s with
    hmat := some H
    cnB := s.cn
    ckB := s.ck
    cvarB := s.cvar
    csB := if s.cvar = 1 then s.cs else 0
    status := { s.status with cvalid := true } }

/-- CBUILD (R201 to R206). -/
def execCbuild (s : State) : Host.Outcome State Fault Refusal :=
  let s0 := clearCode s
  conclude s0 do
    checkCodeConfig s0
    checkOrthogonal s0 (newParity s0)
    pure (commitCode s0 (newParity s0))

/-- The information word INFO[0..K'-1] (R210). -/
def infoIn (s : State) : List Nat := winNats s .info (codeView s).infoLen

/-- The codeword of INFO (R210), padded. -/
def codeword (s : State) : List Nat := encodeWord (codeView s) (padZeros (codeView s).s (infoIn s))

/-- ENC (R210). -/
def execEnc (s : State) : Host.Outcome State Fault Refusal :=
  conclude s do
    needCode s
    checkWindow s .info (codeView s).infoLen s.fqB.toNat 5
    let c := codeword s
    pure (putResult0 (setWin s .out (wireWord (codeView s) c (overallParity (codeView s) c))) (codeView s).wireLen)

/-- SYND (R215). -/
def execSynd (s : State) : Host.Outcome State Fault Refusal :=
  conclude s do
    needCode s
    checkErasures s
    let C := codeView s
    let S := syndrome C (paddedWord C (wireIn s) (erasList s))
    let yw := knownWord C (wireIn s) (erasList s)
    let total := if C.extended then sumBelow (C.n + 1) (fun j => at0 yw j) % C.q else 0
    pure { setWin s .syn S with result0 := if isZero S then 0 else 1, result1 := toWord total }

/-- The outputs of HDEC (R252, R246) from the decoder's working variables. -/
def putDecoding (s : State) (D : Decoding) (S1 : List Nat) : State :=
  let C := codeView s
  let out := setWin s .out (wireWord C D.y D.p)
  let info := setWin out .info (tabulate C.infoLen fun i => at0 D.y (C.s + i))
  { setWin info .syn S1 with
    dstat := D.flags
    result0 := match D.loc with
      | some ja => toWord ja.1
      | none => 0xFFFFFFFF
    result1 := match D.loc with
      | some ja => toWord ja.2
      | none => 0 }

/-- HDEC (R240 to R252). -/
def execHdec (s : State) : Host.Outcome State Fault Refusal :=
  conclude s do
    needCode s
    checkErasures s
    let d := decodeWord (codeView s) (wireIn s) (erasList s)
    pure (putDecoding s d.1 d.2)

end Sys2Proof.Machine
end

