-- ==== Sys2Proof/Machine/PolyUnit.lean ====
section
/-! DEFINITION. The polynomial commands (spec/41_polynomial.md R188 to R196). -/

namespace Sys2Proof.Machine

/-- PADD (R188). -/
def execPadd (s : State) : Host.Outcome State Fault Refusal :=
  conclude s do
    needPolyAB s
    pure (putPr0 s (padd (fieldView s) (polyA s) (polyB s)))

/-- PSUB (R189). -/
def execPsub (s : State) : Host.Outcome State Fault Refusal :=
  conclude s do
    needPolyAB s
    pure (putPr0 s (psub (fieldView s) (polyA s) (polyB s)))

/-- The product of two nonzero operands is longer than P_PLEN (R190). -/
def productTooLong (plen : Nat) (a b : List Nat) : Bool :=
  trim a != [0] && trim b != [0] && decide (plen < (trim a).length + (trim b).length - 1)

/-- PMUL (R190). -/
def execPmul (s : State) : Host.Outcome State Fault Refusal :=
  conclude s do
    needPolyAB s
    failIf (productTooLong s.params.plen (polyA s) (polyB s)) .capacity 8
    pure (putPr0 s (pmul (fieldView s) (polyA s) (polyB s)))

/-- PDIVMOD (R191). -/
def execPdivmod (s : State) : Host.Outcome State Fault Refusal :=
  conclude s do
    needPolyAB s
    failIf (trim (polyB s) == [0]) .divisionByZero 0
    let qr := pdivmod (fieldView s) (polyA s) (polyB s)
    pure (putPr1 (putPr0 s qr.1) qr.2)

/-- PEVAL (R192): PA is checked before OPA. -/
def execPeval (s : State) : Host.Outcome State Fault Refusal :=
  conclude s do
    needPolyA s
    checkOpa s
    pure (putResult0 s (peval (fieldView s) (polyA s) s.opa.toNat))

/-- PGCD (R193). -/
def execPgcd (s : State) : Host.Outcome State Fault Refusal :=
  conclude s do
    needPolyAB s
    pure (putPr0 s (pxgcd (fieldView s) (polyA s) (polyB s)).1)

/-- PXGCD (R194). -/
def execPxgcd (s : State) : Host.Outcome State Fault Refusal :=
  conclude s do
    needPolyAB s
    let g := pxgcd (fieldView s) (polyA s) (polyB s)
    pure (putPr2 (putPr1 (putPr0 s g.1) g.2.1) g.2.2)

/-- PDERIV (R195). -/
def execPderiv (s : State) : Host.Outcome State Fault Refusal :=
  conclude s do
    needPolyA s
    pure (putPr0 s (pderiv (polyA s)))

end Sys2Proof.Machine
end

