-- ==== Sys2Proof/Machine/Dispatch.lean ====
section
/-! DEFINITION. One arm per command: the completion event of the command in the state it runs in. -/

namespace Sys2Proof.Machine

open Sys2Proof

def exec (i : Instr) (s : State) : Host.Outcome State Fault Refusal :=
  match i with
  | .nop => Sys2Proof.Machine.execNop s
  | .fbuild => Sys2Proof.Machine.execFbuild s
  | .cbuild => Sys2Proof.Machine.execCbuild s
  | .fadd => Sys2Proof.Machine.execFadd s
  | .fsub => Sys2Proof.Machine.execFsub s
  | .fmul => Sys2Proof.Machine.execFmul s
  | .fdiv => Sys2Proof.Machine.execFdiv s
  | .fpow => Sys2Proof.Machine.execFpow s
  | .finv => Sys2Proof.Machine.execFinv s
  | .fi2v => Sys2Proof.Machine.execFi2v s
  | .fv2i => Sys2Proof.Machine.execFv2i s
  | .enc => Sys2Proof.Machine.execEnc s
  | .synd => Sys2Proof.Machine.execSynd s
  | .hdec => Sys2Proof.Machine.execHdec s
  | .bsyn => Sys2Proof.Machine.execBsyn s
  | .bm => Sys2Proof.Machine.execBm s
  | .chien => Sys2Proof.Machine.execChien s
  | .bdec => Sys2Proof.Machine.execBdec s
  | .padd => Sys2Proof.Machine.execPadd s
  | .psub => Sys2Proof.Machine.execPsub s
  | .pmul => Sys2Proof.Machine.execPmul s
  | .pdivmod => Sys2Proof.Machine.execPdivmod s
  | .peval => Sys2Proof.Machine.execPeval s
  | .pgcd => Sys2Proof.Machine.execPgcd s
  | .pxgcd => Sys2Proof.Machine.execPxgcd s
  | .pderiv => Sys2Proof.Machine.execPderiv s

end Sys2Proof.Machine
end

