-- ==== Sys2Proof/Machine/Sequencer.lean ====
section
/-! DEFINITION. What happens next: the completion of the running command, the host's next step, or nothing
(spec/60_exceptions.md R400, R421, spec/70_reset_and_hazards.md R463). -/

namespace Sys2Proof.Machine

/-- The running command completes: its meaning, or ILLEGAL_COMMAND with the word as detail (spec/30_encoding.md R124). -/
def runCommand (s : State) : Host.Outcome State Fault Refusal :=
  match decode s.cmd with
  | .ok i => exec i s
  | .error _ => .next (raiseError { code := .illegalCommand, info := s.cmd } s)

/-- The running command completes now: no host step precedes it any more, or the host has none ready. -/
def completionDue (s : State) : Bool := s.status.busy && (s.delay == 0 || s.host.isEmpty)

/-- The host's next step is performed; with none, the idle core waits (R450). -/
def serveHost (s : State) : Host.Outcome State Fault Refusal :=
  match s.host with
  | [] => .next s
  | h :: rest => hostStep { s with host := rest, delay := s.delay - 1 } h

/-- One event: a completion or a host step. -/
def nextEvent (s : State) : Host.Outcome State Fault Refusal :=
  if completionDue s then runCommand s else serveHost s

/-- The state right after a CMD write of the word was accepted, rst_n being 1, with its completion due next. -/
def withRunningWord (s : State) (w : Word) : State := { startCommand w s with rstN := true, delay := 0 }

end Sys2Proof.Machine
end

