-- ==== Sys2Proof/Machine/Step.lean ====
section
/-! DEFINITION. One step of the machine, and the state in which a given command word runs next. -/

namespace Sys2Proof.Machine

/-- One step: the completion of the running command if it is due, else the host's next bus step. -/
def step (s : State) : Host.Outcome State Fault Refusal := nextEvent s

/-- The command word accepted (spec/10_state.md R34), to be run by the very next step: the core fetches no instruction,
its command is the word in CMD while BUSY = 1 (log entry 10). -/
def State.withFetchWord (s : State) (nbits w : Nat) : State := withRunningWord s (tableWord nbits w)

end Sys2Proof.Machine
end

