-- ==== Sys2Proof/Machine/HostProgram.lean ====
section
/-! DEFINITION. The host-program syntax of spec/30_encoding.md R125 as lists of bus steps, and the end of a run
(spec/70_reset_and_hazards.md R457). -/

namespace Sys2Proof.Machine

/-- The offset of a register (R81). -/
def regOffset (r : Reg) : Nat := ((regTable.find? fun row => row.2 == r).map (·.1)).getD 0

/-- `WR reg, v`. -/
def wrReg (p : Params) (r : Reg) (v : Word) : BusStep := .write (p.base + regOffset r) 4 v

/-- `RD reg`. -/
def rdReg (p : Params) (r : Reg) : BusStep := .read (p.base + regOffset r) 4

/-- `WR VREG[d], v`. -/
def wrVreg (p : Params) (d : Nat) (v : Word) : BusStep := .write (p.base + 0x0C0 + 4 * d) 4 v

/-- `RD VREG[d]`. -/
def rdVreg (p : Params) (d : Nat) : BusStep := .read (p.base + 0x0C0 + 4 * d) 4

/-- `WR POLY[i], v`. -/
def wrPoly (p : Params) (i : Nat) (v : Word) : BusStep := .write (p.base + 0x100 + 4 * i) 4 v

/-- `WR WIN[i], v`. -/
def wrWin (p : Params) (w : Win) (i : Nat) (v : Word) : BusStep := .write (p.base + winBase w + 4 * i) 4 v

/-- `RD WIN[i]`. -/
def rdWin (p : Params) (w : Win) (i : Nat) : BusStep := .read (p.base + winBase w + 4 * i) 4

/-- `WRV WIN, [v0, ...]`. -/
def wrvWin (p : Params) (w : Win) (vs : List Word) : List BusStep := vs.zipIdx.map fun vi => wrWin p w vi.2 vi.1

/-- `WRV POLY, [v0, ...]`. -/
def wrvPoly (p : Params) (vs : List Word) : List BusStep := vs.zipIdx.map fun vi => wrPoly p vi.2 vi.1

/-- `CMD MNEMONIC`. -/
def cmdStep (p : Params) (i : Instr) : BusStep := wrReg p .cmd (encode i)

/-- `RUN MNEMONIC`: CMD, then WAIT. -/
def runCmd (p : Params) (i : Instr) : List BusStep := [cmdStep p i, .wait]

/-- `CLRST`: clears DONE, ERR and WOB. -/
def clrst (p : Params) : BusStep := wrReg p .status 0x26

/-- The run has ended (R457): no host step is left and no command runs. R457 does not cover a run whose command was
abandoned by a soft or hardware reset; DESIGN CHOICE (log entry 19): such a run, with no step left, counts as ended too. -/
def ended (s : State) : Bool := s.host.isEmpty && !s.status.busy

end Sys2Proof.Machine
end

