-- ==== Sys2Proof/Safety.lean ====
section
/-! DEFINITION. What the claims speak of: a built field, a built code, the invariant of the machine, and the operand
conditions under which a command executes normally. -/

namespace Sys2Proof.Machine

open Sys2Proof

/-- The register fields of a state hold a field built by a successful FBUILD (spec/40_field.md R151 to R155): q prime,
the size q^m, ELEM a table built from some normalised modulus, its rows pairwise distinct, V2I its inverse map. -/
structure FieldOk (s : State) : Prop where
  valid : s.status.fvalid = true
  prime : Nat.Prime s.fqB.toNat
  degree : 1 ≤ s.fmB.toNat ∧ s.fmB.toNat ≤ s.params.mmax
  size : s.fsize.toNat = s.fqB.toNat ^ s.fmB.toNat
  capacity : s.fsize.toNat ≤ s.params.fsmax
  tables : ∃ red : List Nat, red.length = s.fmB.toNat ∧ (∀ d ∈ red, d < s.fqB.toNat) ∧
    (buildTable s.fqB.toNat s.fmB.toNat red).Nodup ∧
    s.elem = some (buildTable s.fqB.toNat s.fmB.toNat red) ∧
    s.v2i = some (inverseMap (buildTable s.fqB.toNat s.fmB.toNat red))

/-- The state holds a code built by a successful CBUILD over the built field (spec/42_code_encoder.md R201 to R206). -/
structure CodeOk (s : State) : Prop where
  field : FieldOk s
  valid : s.status.cvalid = true
  dims : 1 ≤ s.ckB.toNat ∧ s.ckB.toNat < s.cnB.toNat ∧ s.cnB.toNat - s.ckB.toNat = s.fmB.toNat
  bound : s.cnB.toNat ≤ (s.fsize.toNat - 1) / (s.fqB.toNat - 1)
  depth : s.cnB.toNat ≤ s.params.nbuf - 1
  variant : s.cvarB.toNat ≤ 2
  shortening : (s.cvarB ≠ 1 → s.csB = 0) ∧ (s.cvarB = 1 → s.csB.toNat < min s.cnB.toNat s.ckB.toNat)
  parity : s.hmat = some (parityMatrix (fieldView s) s.cnB.toNat s.ckB.toNat)

/-- No field is built: the snapshot is 0 and the tables are unspecified (spec/10_state.md R40, R50). -/
def NoField (s : State) : Prop :=
  s.status.fvalid = false ∧ s.fsize = 0 ∧ s.fqB = 0 ∧ s.fmB = 0 ∧ s.elem = none ∧ s.v2i = none

/-- No code is built: the snapshot is 0 and H is unspecified (R41, R51). -/
def NoCode (s : State) : Prop :=
  s.status.cvalid = false ∧ s.cnB = 0 ∧ s.ckB = 0 ∧ s.cvarB = 0 ∧ s.csB = 0 ∧ s.hmat = none

/-- The error registers agree with STATUS (R34 to R36): while a command runs they are clear, ERRINFO is 0 without an
error, and ERR stands only with an error code. -/
def ErrorsAgree (s : State) : Prop :=
  (s.status.busy = true → s.status.done = false ∧ s.status.err = false ∧ s.errcode = .noError ∧ s.errinfo = 0) ∧
  (s.errcode = .noError → s.errinfo = 0) ∧
  (s.status.err = true → s.errcode ≠ .noError)

/-- The core is at its reset values (spec/70_reset_and_hazards.md R451): every register reads 0 but ID, no field and no
code is built, no command runs and the interrupt line is low. -/
structure AtResetValues (s : State) : Prop where
  registers : ∀ r : Reg, readReg s r = if r = .id then 0x47464331 else 0
  vectors : (∀ d, s.vreg.getD d 0 = 0) ∧ ∀ i, s.poly.getD i 0 = 0
  unbuilt : NoField s ∧ NoCode s
  idle : s.status.busy = false ∧ irq s = false

/-- The invariant of the machine: legal parameters, window memory in canonical form, the field either absent or built,
the code either absent or built, the error registers in agreement, and the reset values while rst_n = 0 (R450). -/
structure Inv (s : State) : Prop where
  params : s.params.wf = true
  memory : Memory.wf s.win = true
  field : NoField s ∨ FieldOk s
  code : NoCode s ∨ CodeOk s
  errors : ErrorsAgree s
  held : s.rstN = false → AtResetValues s

/-- The numbers of IN, INFO, ... are words; the word a window holds at index i as a number. -/
def winNat (s : State) (w : Win) (i : Nat) : Nat := (winWord s w i).toNat

/-- A region offset lies in the first `len` words of a window. -/
def inWindow (w : Win) (len a : Nat) : Prop := winBase w ≤ a ∧ a < winBase w + 4 * len

/-- A list of digits: length m, each below q. -/
def isDigits (q m : Nat) (v : List Nat) : Prop := v.length = m ∧ ∀ d ∈ v, d < q

/-- A binary field is built (NOT_BINARY does not arise). -/
def BinaryField (s : State) : Prop := FieldOk s ∧ s.fqB = 2

/-- Operand A of a polynomial command passes its checks (spec/41_polynomial.md R188). -/
def OperandA (s : State) : Prop :=
  s.palen.toNat ≤ s.params.plen ∧ ∀ i < s.palen.toNat, winNat s .pa i < s.fsize.toNat

/-- Operand B of a polynomial command passes its checks (R188). -/
def OperandB (s : State) : Prop :=
  s.pblen.toNat ≤ s.params.plen ∧ ∀ i < s.pblen.toNat, winNat s .pb i < s.fsize.toNat

/-- The erasure list passes its checks (spec/42_code_encoder.md R213). -/
def ErasuresOk (s : State) : Prop :=
  s.neras.toNat ≤ s.params.nbuf ∧ ∀ t < s.neras.toNat, winNat s .eras t < (codeView s).wireLen

/-- No position is erased: no listed position, and every received symbol is a digit (R213). -/
def NothingErased (s : State) : Prop :=
  s.neras = 0 ∧ ∀ j < (codeView s).wireLen, winNat s .inp j < s.fqB.toNat

/-- The BCH parameters pass NCHK and TCHK (spec/44_bch.md R280). -/
def BchLength (s : State) : Prop := 1 ≤ s.bn.toNat ∧ s.bn.toNat ≤ s.fsize.toNat - 1 ∧ s.bn.toNat ≤ s.params.nbuf

/-- The BCH capacity passes TCHK (R280). -/
def BchCapacity (s : State) : Prop := 1 ≤ s.bt.toNat ∧ s.bt.toNat ≤ s.params.tmax

/-- The received bits pass INCHK (R280). -/
def BchBits (s : State) : Prop := ∀ j < s.bn.toNat, winNat s .inp j ≤ 1

/-- The error codes a command can complete with (spec/60_exceptions.md R413). -/
def possibleErrors : Instr → List ErrCode
  | .nop => []
  | .fbuild => [.incorrectCharacteristic, .incorrectDegree, .capacity, .incorrectPolynomial, .fieldConstruction]
  | .cbuild => [.fieldNotValid, .construction, .capacity, .invalidShortening]
  | .fadd | .fsub | .fmul => [.fieldNotValid, .operandRange]
  | .fdiv | .fpow | .finv => [.fieldNotValid, .operandRange, .divisionByZero]
  | .fi2v | .fv2i => [.fieldNotValid, .operandRange]
  | .enc => [.fieldNotValid, .codeNotValid, .operandRange]
  | .synd | .hdec => [.fieldNotValid, .codeNotValid, .capacity, .operandRange]
  | .bsyn => [.fieldNotValid, .notBinary, .construction, .capacity, .operandRange]
  | .bdec => [.fieldNotValid, .notBinary, .construction, .capacity, .operandRange, .uncorrectable]
  | .bm | .chien => [.fieldNotValid, .notBinary, .construction, .capacity, .operandRange]
  | .padd | .psub | .pgcd | .pxgcd | .pmul => [.fieldNotValid, .notBinary, .capacity, .operandRange]
  | .pdivmod => [.fieldNotValid, .notBinary, .capacity, .operandRange, .divisionByZero]
  | .peval | .pderiv => [.fieldNotValid, .notBinary, .capacity, .operandRange]

/-! ### Bus steps -/

/-- rst_n is 1 and the host's next step is a 32-bit read at a region offset. -/
def ReadNext (s : State) (off : Nat) (rest : List BusStep) : Prop :=
  s.rstN = true ∧ s.host = .read (s.params.base + off) 4 :: rest

/-- rst_n is 1 and the host's next step is a 32-bit write at a region offset. -/
def WriteNext (s : State) (off : Nat) (v : Word) (rest : List BusStep) : Prop :=
  s.rstN = true ∧ s.host = .write (s.params.base + off) 4 v :: rest

/-- The state with one host step taken off the list, the running command's completion one host step nearer. -/
def served (s : State) (rest : List BusStep) : State := { s with host := rest, delay := s.delay - 1 }

/-- The reserved offsets of spec/20_memory.md R81, and the window words at index P_NBUF and above. -/
def reservedOffset (p : Params) (off : Nat) : Prop :=
  off = 0x07C ∨ (0x0A8 ≤ off ∧ off < 0x0C0) ∨ (0x144 ≤ off ∧ off < 0x1000) ∨ 0xD000 ≤ off ∨
    (0x1000 ≤ off ∧ off < 0xD000 ∧ p.nbuf ≤ off % 0x1000 / 4)

/-- The words of VREG from P_MMAX on and of POLY from P_MMAX + 1 on, which do not exist (log entry 12, DEDUCED). -/
def beyondMmax (p : Params) (off : Nat) : Prop :=
  (0x0C0 + 4 * p.mmax ≤ off ∧ off < 0x100) ∨ (0x104 + 4 * p.mmax ≤ off ∧ off < 0x144)

/-- The registers a host writes and reads back whole (spec/10_state.md R42 to R44, R46, R48, R49), by offset. -/
def readWriteRegs : List (Nat × Reg) :=
  [(0x040, Reg.opa), (0x044, Reg.opb), (0x048, Reg.ope), (0x080, Reg.fq), (0x084, Reg.fm), (0x088, Reg.cn),
   (0x08C, Reg.ck), (0x090, Reg.cvar), (0x094, Reg.cs), (0x098, Reg.bn), (0x09C, Reg.bk), (0x0A0, Reg.bt),
   (0x0A4, Reg.bfcr), (0x04C, Reg.llen), (0x054, Reg.neras), (0x058, Reg.palen), (0x05C, Reg.pblen),
   (0x06C, Reg.mrow), (0x070, Reg.mcol)]

/-- What an idle bus read answers at the offset of each register that holds a whole word (spec/10_state.md R31, R34, R36,
R38 to R44, R46, R48, R49). -/
def heldWords (s : State) : List (Nat × Word) :=
  [(0x000, 0x47464331), (0x00C, s.cmd), (0x014, s.errinfo), (0x01C, s.result0), (0x020, s.result1),
   (0x024, s.fsize), (0x028, s.fqB), (0x02C, s.fmB), (0x030, s.cnB), (0x034, s.ckB), (0x038, s.cvarB), (0x03C, s.csB)] ++
  [(0x040, s.opa), (0x044, s.opb), (0x048, s.ope), (0x04C, s.llen), (0x050, s.lreg), (0x054, s.neras),
   (0x058, s.palen), (0x05C, s.pblen), (0x060, s.pr0len), (0x064, s.pr1len), (0x068, s.pr2len),
   (0x06C, s.mrow), (0x070, s.mcol)] ++
  [(0x080, s.fq), (0x084, s.fm), (0x088, s.cn), (0x08C, s.ck), (0x090, s.cvar), (0x094, s.cs),
   (0x098, s.bn), (0x09C, s.bk), (0x0A0, s.bt), (0x0A4, s.bfcr)]

/-- The state after an idle write of a word at the offset of each register of `readWriteRegs`, but for the response. -/
def writtenStates (s : State) (v : Word) : List (Nat × State) :=
  [(0x040, { s with opa := v }), (0x044, { s with opb := v }), (0x048, { s with ope := v }),
   (0x04C, { s with llen := v }), (0x054, { s with neras := v }), (0x058, { s with palen := v }),
   (0x05C, { s with pblen := v }), (0x06C, { s with mrow := v }), (0x070, { s with mcol := v })] ++
  [(0x080, { s with fq := v }), (0x084, { s with fm := v }), (0x088, { s with cn := v }), (0x08C, { s with ck := v }),
   (0x090, { s with cvar := v }), (0x094, { s with cs := v }), (0x098, { s with bn := v }), (0x09C, { s with bk := v }),
   (0x0A0, { s with bt := v }), (0x0A4, { s with bfcr := v })]

/-- The code numbers of spec/60_exceptions.md R410. -/
def errorNumbers : List (ErrCode × Word) :=
  [(.noError, 0), (.illegalCommand, 1), (.incorrectCharacteristic, 2), (.incorrectDegree, 3), (.incorrectPolynomial, 4),
   (.fieldConstruction, 5), (.fieldNotValid, 6), (.operandRange, 7), (.divisionByZero, 8), (.construction, 9),
   (.shapeOrOrthogonality, 10), (.invalidShortening, 11), (.codeNotValid, 12), (.uncorrectable, 13), (.notBinary, 14),
   (.capacity, 15)]

/-- A word shows STATUS bit by bit (R33). -/
def ShowsStatus (t : Status) (w : Word) : Prop :=
  w.getLsbD 0 = t.busy ∧ w.getLsbD 1 = t.done ∧ w.getLsbD 2 = t.err ∧ w.getLsbD 3 = t.fvalid ∧
    w.getLsbD 4 = t.cvalid ∧ w.getLsbD 5 = t.wob ∧ ∀ i, 6 ≤ i → w.getLsbD i = false

/-- A word shows DSTAT bit by bit (R37). -/
def ShowsDStat (d : DStat) (w : Word) : Prop :=
  w.getLsbD 0 = d.erased ∧ w.getLsbD 1 = d.erasOk ∧ w.getLsbD 2 = d.erasFail ∧ w.getLsbD 3 = d.corrected ∧
    w.getLsbD 4 = d.detectOnly ∧ w.getLsbD 5 = d.parityFixed ∧ w.getLsbD 6 = d.doubleDetect ∧
    w.getLsbD 7 = d.punctured ∧ w.getLsbD 8 = d.parityErased ∧ w.getLsbD 9 = d.bszero ∧
    w.getLsbD 10 = d.lmismatch ∧ w.getLsbD 11 = d.buncorr ∧ ∀ i, 12 ≤ i → w.getLsbD i = false

/-- The registers that ignore every write (RO in spec/10_state.md R31 to R49), by offset. -/
def readOnlyRegs : List (Nat × Reg) :=
  [(0x000, Reg.id), (0x010, Reg.errcode), (0x014, Reg.errinfo), (0x018, Reg.dstat), (0x01C, Reg.result0),
   (0x020, Reg.result1), (0x024, Reg.fsize), (0x028, Reg.fqB), (0x02C, Reg.fmB), (0x030, Reg.cnB), (0x034, Reg.ckB),
   (0x038, Reg.cvarB), (0x03C, Reg.csB), (0x050, Reg.lreg), (0x060, Reg.pr0len), (0x064, Reg.pr1len),
   (0x068, Reg.pr2len), (0x074, Reg.hdata), (0x078, Reg.gdata)]

/-! ### Elements, polynomials and code words as numbers -/

/-- The coefficient of x^d in element a of the built field (spec/10_state.md R50). -/
def coord (s : State) (a d : Nat) : Nat := at0 (vec (fieldView s) a) d

/-- The element `v` is the sum of the elements `f i` over the indices of a list, in characteristic 2. -/
def IsXorSum (s : State) (v : Nat) (is : List Nat) (f : Nat → Nat) : Prop :=
  v < s.fsize.toNat ∧ ∀ d < s.fmB.toNat, coord s v d = (is.map fun i => coord s (f i) d).sum % 2

/-- The product of two elements by exponents (spec/40_field.md R164). -/
def mulIndex (s : State) (a b : Nat) : Nat :=
  if a = 0 ∨ b = 0 then 0 else ((a - 1) + (b - 1)) % (s.fsize.toNat - 1) + 1

/-- The element a^i for a count i (R166). -/
def powIndex (s : State) (a i : Nat) : Nat :=
  if a = 0 then (if i = 0 then 1 else 0) else ((a - 1) * i) % (s.fsize.toNat - 1) + 1

/-- The coefficient of x^i of the polynomial that the first `len` words of a window hold. -/
def coeff (s : State) (w : Win) (len i : Nat) : Nat := if i < len then winNat s w i else 0

/-- The first `len` words of a window hold a trimmed polynomial (spec/41_polynomial.md R185). -/
def Trimmed (s : State) (w : Win) (len : Nat) : Prop := 1 ≤ len ∧ (1 < len → winNat s w (len - 1) ≠ 0)

/-- The length of the trimmed polynomial in the first `len` words of a window, found by reading down from the top. -/
def degreeLength (s : State) (w : Win) : Nat → Nat
  | 0 => 1
  | len + 1 => if winNat s w len = 0 ∧ len ≠ 0 then degreeLength s w len else len + 1

/-- The extended Euclidean algorithm of spec/41_polynomial.md R187 on the operands a and b, before it is made monic, as the
sequences it runs through, ended after n divisions: remainders r, quotients k, coefficients u of a and v of b. Each
division has the remainder 0 or shorter than its divisor, which determines it (R197). -/
structure EuclidRun (F : FieldView) (a b : List Nat) (n : Nat) (r k u v : Nat → List Nat) : Prop where
  start : r 0 = trim a ∧ r 1 = trim b ∧ u 0 = [1] ∧ u 1 = [0] ∧ v 0 = [0] ∧ v 1 = [1]
  divides : ∀ i < n, r (i + 1) ≠ [0] ∧ r i = padd F (pmul F (k i) (r (i + 1))) (r (i + 2)) ∧
    (r (i + 2) = [0] ∨ (r (i + 2)).length < (r (i + 1)).length)
  coefficients : ∀ i < n, u (i + 2) = psub F (u i) (pmul F (k i) (u (i + 1))) ∧
    v (i + 2) = psub F (v i) (pmul F (k i) (v (i + 1)))
  elements : ∀ i < n, (∀ c ∈ k i ++ r (i + 2), c < F.size) ∧ trim (k i) = k i ∧ trim (r (i + 2)) = r (i + 2)
  ends : r (n + 1) = [0]

/-- Entry (i, j) of H, for a wire position j of the built code: the punctured columns are skipped (spec/42 R207). -/
def wireH (s : State) (i j : Nat) : Nat := matAt (codeView s).H i (s.csB.toNat + j)

/-- The wire symbols that H covers: all but the overall-parity symbol of an Extended word. -/
def coveredLen (s : State) : Nat := s.cnB.toNat - s.csB.toNat

/-- The first symbols of a window are a code word on the wire: digits, every row of H sums to 0, and so does an
Extended word (spec/42_code_encoder.md R210, R214). -/
def IsCodeword (s : State) (word : Nat → Nat) : Prop :=
  (∀ j < (codeView s).wireLen, word j < s.fqB.toNat) ∧
  (∀ i < s.fmB.toNat, sumBelow (coveredLen s) (fun j => wireH s i j * word j) % s.fqB.toNat = 0) ∧
  (s.cvarB = 2 → sumBelow (s.cnB.toNat + 1) word % s.fqB.toNat = 0)

/-- A received symbol with erasures read as 0 (R213). -/
def receivedSymbol (s : State) (j : Nat) : Nat :=
  if s.fqB.toNat ≤ winNat s .inp j ∨ ∃ t < s.neras.toNat, winNat s .eras t = j then 0 else winNat s .inp j

/-- The wire position is erased: a symbol outside [0, q), or listed in ERAS (R213). -/
def IsErased (s : State) (j : Nat) : Prop := s.fqB.toNat ≤ winNat s .inp j ∨ ∃ x < s.neras.toNat, winNat s .eras x = j

/-- Row i of H times a word of the covered wire symbols, mod q (R214). -/
def rowTimes (s : State) (i : Nat) (word : Nat → Nat) : Nat :=
  sumBelow (coveredLen s) (fun j => wireH s i j * word j) % s.fqB.toNat

/-- The columns of H at the erased positions are linearly independent over GF(q): the full column rank of
spec/43_syndrome_decoder.md R244. -/
def ErasedIndependent (s : State) : Prop :=
  ∀ x : Nat → Nat, (∀ j, x j < s.fqB.toNat) → (∀ j < coveredLen s, ¬ IsErased s j → x j = 0) →
    (∀ i < s.fmB.toNat, rowTimes s i x = 0) → ∀ j < coveredLen s, x j = 0

/-- Some digits at the erased positions complete the received word to one whose syndrome is 0. -/
def ErasuresConsistent (s : State) : Prop :=
  ∃ x : Nat → Nat, (∀ j < coveredLen s, x j < s.fqB.toNat ∧ (¬ IsErased s j → x j = winNat s .inp j)) ∧
    ∀ i < s.fmB.toNat, rowTimes s i x = 0

/-- Column c of the elimination of R244, entry by entry, on r rows of e + 1 digits: the pivot row is the first at or below
row c with a nonzero entry in column c; it changes places with row c and is scaled to a leading 1 (row c of M'), and its
multiples are subtracted from every other row. -/
def EliminatesColumn (q r e c : Nat) (M M' : Nat → Nat → Nat) : Prop :=
  ∃ piv f, c ≤ piv ∧ piv < r ∧ M piv c ≠ 0 ∧ (∀ i, c ≤ i → i < piv → M i c = 0) ∧ M piv c * f % q = 1 ∧
    (∀ d ≤ e, M' c d = M piv d * f % q) ∧
    ∀ i < r, i ≠ c → ∀ d ≤ e,
      let old := M (if i = piv then c else i)
      M' i d < q ∧ (M' i d + old c * M' c d) % q = old d

/-- The erased positions of `fill` hold what the elimination of R244 gives them: the unknowns are the erased positions in
increasing order, the right side is the negative of the syndrome of the received word with erasures read as 0 (R243), the
columns are eliminated in order, and unknown c is the right side of row c at the end, whether or not the rows below agree
(R245 (d)). -/
def ErasuresSolved (s : State) (fill : Nat → Nat) : Prop :=
  ∃ (Ep : List Nat) (M : Nat → Nat → Nat → Nat),
    Ep.Pairwise (· < ·) ∧ (∀ j, j ∈ Ep ↔ j < coveredLen s ∧ IsErased s j) ∧
    (∀ i < s.fmB.toNat, (∀ c < Ep.length, M 0 i c = wireH s i (at0 Ep c)) ∧
      M 0 i Ep.length < s.fqB.toNat ∧ (M 0 i Ep.length + rowTimes s i (receivedSymbol s)) % s.fqB.toNat = 0) ∧
    (∀ c < Ep.length, EliminatesColumn s.fqB.toNat s.fmB.toNat Ep.length c (M c) (M (c + 1))) ∧
    ∀ c < Ep.length, fill (at0 Ep c) = M Ep.length c Ep.length

/-- The syndrome S is a times column j of H (R248). -/
def SyndromeMatches (s : State) (S : Nat → Nat) (j a : Nat) : Prop :=
  j < s.cnB.toNat ∧ 1 ≤ a ∧ a < s.fqB.toNat ∧ ∀ i < s.fmB.toNat, S i = a * matAt (codeView s).H i j % s.fqB.toNat

/-- The flags of the steps after the erasures, by the syndrome S of the filled word (R247, R249), for Classic, Shortened
and an Extended word whose parity symbol is erased (R251). -/
def ClassicFlags (s : State) (S : Nat → Nat) (d : DStat) : Prop :=
  (d.corrected = true ↔ (∃ i < s.fmB.toNat, S i ≠ 0) ∧ ∃ j a, SyndromeMatches s S j a ∧ s.csB.toNat ≤ j) ∧
  (d.punctured = true ↔ (∃ i < s.fmB.toNat, S i ≠ 0) ∧ ∃ j a, SyndromeMatches s S j a ∧ j < s.csB.toNat) ∧
  (d.detectOnly = true ↔ (∃ i < s.fmB.toNat, S i ≠ 0) ∧ d.corrected = false) ∧
  d.parityFixed = false ∧ d.doubleDetect = false

/-- The table of R250 for an Extended word with a known parity symbol: S the syndrome of the filled word, par its overall
sum mod q. -/
def ExtendedFlags (s : State) (S : Nat → Nat) (par : Nat) (d : DStat) : Prop :=
  (d.parityFixed = true ↔ (∀ i < s.fmB.toNat, S i = 0) ∧ par ≠ 0) ∧
  (d.corrected = true ↔ (∃ i < s.fmB.toNat, S i ≠ 0) ∧ par ≠ 0 ∧ ∃ j a, SyndromeMatches s S j a) ∧
  (d.doubleDetect = true ↔ (∃ i < s.fmB.toNat, S i ≠ 0) ∧ par = 0) ∧
  (d.detectOnly = true ↔ (∃ i < s.fmB.toNat, S i ≠ 0) ∧ d.corrected = false) ∧ d.punctured = false

/-- The positions of the ones of the received BCH word. -/
def onesOf (s : State) : List Nat := (List.range s.bn.toNat).filter fun j => winNat s .inp j == 1

/-- `v` is the syndrome of index u (spec/44_bch.md R282): the sum of x^((b + u) j) over the ones j of the word. -/
def IsBchSyndrome (s : State) (u v : Nat) : Prop :=
  IsXorSum s v (onesOf s) fun j => (s.bfcr.toNat + u) * j % (s.fsize.toNat - 1) + 1

/-- The syndrome sequence SYN[0..2t-1] satisfies, from position L on, the linear recurrence with the coefficients c: for
every r in [L, 2t) the sum of c i * SYN[r - i] over i in [0, L] is 0 (spec/44_bch.md R285). -/
def Generates (s : State) (c : Nat → Nat) (L : Nat) : Prop :=
  ∀ r, L ≤ r → r < 2 * s.bt.toNat →
    IsXorSum s 0 (List.range (L + 1)) fun i => mulIndex s (c i) (winNat s .syn (r - i))

/-- The run of Berlekamp-Massey on SYN[0..2t-1] (spec/44_bch.md R285), coefficient by coefficient: before pass r the
locator is `loc r`, the auxiliary polynomial `aux r`, the length `len r`, the counter `mc r` and the last nonzero discrepancy
`bd r`; pass r finds the discrepancy `disc r` and, if it is not 0, its quotient `quo r` by `bd r`. -/
structure BmRun (s : State) (loc aux : Nat → Nat → Nat) (len mc bd disc quo : Nat → Nat) : Prop where
  start : (∀ i, loc 0 i = if i = 0 then 1 else 0) ∧ aux 0 = loc 0 ∧ len 0 = 0 ∧ mc 0 = 1 ∧ bd 0 = 1
  /-- `Δ = s[r] + sum of coef(Λ, i) * s[r - i]` over i in [1, L] -/
  discrepancy : ∀ r < 2 * s.bt.toNat, IsXorSum s (disc r) (List.range (len r + 1)) fun i =>
    if i = 0 then winNat s .syn r else mulIndex s (loc r i) (winNat s .syn (r - i))
  /-- Δ = 0: only m_counter changes -/
  kept : ∀ r < 2 * s.bt.toNat, disc r = 0 →
    loc (r + 1) = loc r ∧ aux (r + 1) = aux r ∧ len (r + 1) = len r ∧ bd (r + 1) = bd r ∧ mc (r + 1) = mc r + 1
  /-- Δ not 0: the new locator is `Λ - (Δ / b) x^mc B` -/
  updated : ∀ r < 2 * s.bt.toNat, disc r ≠ 0 →
    quo r < s.fsize.toNat ∧ mulIndex s (quo r) (bd r) = disc r ∧
      ∀ i, IsXorSum s (loc (r + 1) i) [0, 1] fun x =>
        if x = 0 then loc r i else if i < mc r then 0 else mulIndex s (quo r) (aux r (i - mc r))
  /-- Δ not 0 and 2 L <= r: the length grows and B, b and m_counter start anew -/
  longer : ∀ r < 2 * s.bt.toNat, disc r ≠ 0 → 2 * len r ≤ r →
    len (r + 1) = r + 1 - len r ∧ aux (r + 1) = loc r ∧ bd (r + 1) = disc r ∧ mc (r + 1) = 1
  /-- Δ not 0 and 2 L > r: the length, B and b stay -/
  sameLength : ∀ r < 2 * s.bt.toNat, disc r ≠ 0 → r < 2 * len r →
    len (r + 1) = len r ∧ aux (r + 1) = aux r ∧ bd (r + 1) = bd r ∧ mc (r + 1) = mc r + 1

end Sys2Proof.Machine
end

