-- ==== Sys2Proof/Certificates/Slice0/Obligations.lean ====
section
/-! DEFINITION. The statements for the provers. Each docstring names the rules it formalises. -/

section Statements

open Sys2Proof Sys2Proof.Machine

/-! ### Encoding -/

/-- Decoding inverts encoding, and no other word decodes to the command (R120, R122). -/
def Obligations.DecodeEncodeAgree : Prop :=
  ∀ i : Instr, i.wf = true → decode (encode i) = .ok i ∧ ∀ w : Word, decode w = .ok i → w = encode i

/-- R120: a word is legal when bits 31:8 are 0 and bits 7:0 are an opcode of R122; a legal word selects one command. -/
def Obligations.LegalWords : Prop :=
  ∀ w : Word, (∃ i, decode w = .ok i) ↔
    w.extractLsb' 8 24 = 0 ∧
      (w.extractLsb' 0 8).toNat ∈ [0x00, 0x01, 0x02, 0x10, 0x11, 0x12, 0x13, 0x14, 0x15, 0x16, 0x17, 0x20, 0x21, 0x22,
        0x30, 0x31, 0x32, 0x33, 0x40, 0x41, 0x42, 0x43, 0x44, 0x45, 0x46, 0x47]

/-- Words of R122 written out, one per family, and two illegal ones (R124). -/
def Obligations.WrittenWordsDecode : Prop :=
  decode 0x00000001 = .ok .fbuild ∧ decode 0x00000013 = .ok .fdiv ∧ decode 0x00000022 = .ok .hdec ∧
    decode 0x00000031 = .ok .bm ∧ decode 0x00000043 = .ok .pdivmod ∧
    decode 0x00000103 = .error .reservedBitsSet ∧ decode 0x00000048 = .error .unassignedOpcode

/-! ### The step and the bus -/

/-- The step runs the decoded command: while a command runs and its completion is due, the step is the meaning of the
command that CMD decodes to. When the completion is due is the model's draw (log entry 5). -/
def Obligations.StepRunsCommand : Prop :=
  ∀ (s : State) (i : Instr), s.status.busy = true → (s.delay = 0 ∨ s.host = []) → decode s.cmd = .ok i →
    step s = exec i s

/-- R124: an illegal word completes with ILLEGAL_COMMAND and the word as detail; no other state changes. -/
def Obligations.IllegalWordCompletes : Prop :=
  ∀ s : State, s.status.busy = true → (s.delay = 0 ∨ s.host = []) → (∀ i, decode s.cmd ≠ .ok i) →
    step s = .next { s with
      errcode := .illegalCommand
      errinfo := s.cmd
      status := { s.status with busy := false, done := true, err := true } }

/-- R34: a write to CMD while BUSY = 0 stores the word, sets BUSY, clears DONE, ERR, ERRCODE and ERRINFO and starts the
command, whatever the word; a write while BUSY = 1 is ignored and sets WOB; a read returns the last word stored. The two
commands with on-start effects do them here, visible while BUSY = 1 (log entry 9, DEDUCED): FBUILD unbuilds the field and
the code, CBUILD the code, and nothing else differs. -/
def Obligations.CmdRegister : Prop :=
  ∀ (s : State) (v : Word) (rest : List BusStep), completionDue s = false →
    (WriteNext s 0x00C v rest → s.status.busy = false →
      ∃ t, step s = .next t ∧ t.cmd = v ∧ t.status.busy = true ∧ t.status.done = false ∧ t.status.err = false ∧
        t.errcode = .noError ∧ t.errinfo = 0 ∧ t.host = rest ∧ t.resp = .written ∧
        (let accepted : State := { served s rest with
          cmd := v, errcode := .noError, errinfo := 0
          status := { s.status with busy := true, done := false, err := false }
          resp := .written, delay := t.delay, draws := s.draws + 1 }
         (decode v ≠ .ok .fbuild → decode v ≠ .ok .cbuild → t = accepted) ∧
           (decode v = .ok .fbuild → t = clearField accepted ∧ NoField t ∧ NoCode t) ∧
           (decode v = .ok .cbuild → t = clearCode accepted ∧ NoCode t))) ∧
    (WriteNext s 0x00C v rest → s.status.busy = true →
      step s = .next { served s rest with resp := .written, status := { s.status with wob := true } }) ∧
    (ReadNext s 0x00C rest → step s = .next { served s rest with resp := .data s.cmd })

/-- R53: while BUSY = 1 a write to CTRL or STATUS takes effect; any other legal write is ignored and sets WOB. -/
def Obligations.BusyWrites : Prop :=
  ∀ (s : State) (off : Nat) (v : Word) (rest : List BusStep), s.status.busy = true → completionDue s = false →
    WriteNext s off v rest → off < 0x10000 → off % 4 = 0 →
      (off ≠ 0x004 → off ≠ 0x008 →
        step s = .next { served s rest with resp := .written, status := { s.status with wob := true } }) ∧
      (off = 0x004 → v.getLsbD 1 = false →
        step s = .next { served s rest with resp := .written, ie := v.getLsbD 0 }) ∧
      (off = 0x008 →
        step s = .next { served s rest with
          resp := .written
          status := { s.status with
            done := s.status.done && !v.getLsbD 1, err := s.status.err && !v.getLsbD 2
            wob := s.status.wob && !v.getLsbD 5 } })

/-- R53: what a read answers while BUSY = 1. Control, configuration and index registers, VREG, POLY and the input-only
windows answer their value, ERRCODE and ERRINFO 0, outputs a value nothing constrains; nothing else changes. -/
def Obligations.BusyReads : Prop :=
  ∀ (s : State) (off : Nat) (rest : List BusStep), s.status.busy = true → completionDue s = false →
    ReadNext s off rest → s.params.wf = true → off < 0x10000 → off % 4 = 0 →
      ((∃ r, (off, r) ∈ readWriteRegs ∧ off ≠ 0x04C ∧
          step s = .next { served s rest with resp := .data (readReg s r) }) ∨
        (off ∈ [0x000, 0x004, 0x008, 0x00C] ∧ ∃ r, (off, r) ∈ regTable ∧
          step s = .next { served s rest with resp := .data (readReg s r) }) ∨
        (∃ d < s.params.mmax, off = 0x0C0 + 4 * d ∧
          step s = .next { served s rest with resp := .data (s.vreg.getD d 0) }) ∨
        (∃ i ≤ s.params.mmax, off = 0x100 + 4 * i ∧
          step s = .next { served s rest with resp := .data (s.poly.getD i 0) }) ∨
        (∃ w ∈ [Win.eras, Win.pa, Win.pb], ∃ i < s.params.nbuf, off = winBase w + 4 * i ∧
          step s = .next { served s rest with resp := .data (winWord s w i) }) ∨
        (off ∈ [0x010, 0x014] ∧ step s = .next { served s rest with resp := .data 0 }) ∨
        ((off = 0x04C ∨ (∃ r, (off, r) ∈ readOnlyRegs ∧ off ∉ [0x000, 0x010, 0x014]) ∨
            ∃ w ∉ [Win.eras, Win.pa, Win.pb], ∃ i < s.params.nbuf, off = winBase w + 4 * i) ∧
          ∃ v, step s = .next { served s rest with resp := .data v, draws := s.draws + 1 }) ∨
        ((reservedOffset s.params off ∨ (0x0C0 + 4 * s.params.mmax ≤ off ∧ off < 0x100) ∨
            (0x104 + 4 * s.params.mmax ≤ off ∧ off < 0x144)) ∧
          step s = .next { served s rest with resp := .data 0 }))

/-- R33, R32: STATUS reads its six bits with 0 above, and a write clears DONE, ERR and WOB where it has a 1 and changes
nothing else; CTRL reads IE at bit 0 and 0 elsewhere, and a write with SRST = 0 stores IE and changes nothing else. Both
whether or not BUSY = 1. The interrupt line is DONE and IE (R420). WAIT reads STATUS and stays the host's next step while
that read shows BUSY = 1 (R125). -/
def Obligations.StatusAndControl : Prop :=
  ∀ (s : State) (v : Word) (rest : List BusStep), completionDue s = false →
    (ReadNext s 0x008 rest → ∃ w, step s = .next { served s rest with resp := .data w } ∧ ShowsStatus s.status w) ∧
    (s.rstN = true → s.host = .wait :: rest → ∃ w, ShowsStatus s.status w ∧
      step s = .next { served s (if s.status.busy then .wait :: rest else rest) with resp := .data w }) ∧
    (WriteNext s 0x008 v rest → step s = .next { served s rest with
      resp := .written
      status := {
        busy := s.status.busy, done := s.status.done && !v.getLsbD 1, err := s.status.err && !v.getLsbD 2
        fvalid := s.status.fvalid, cvalid := s.status.cvalid, wob := s.status.wob && !v.getLsbD 5 } }) ∧
    (ReadNext s 0x004 rest → ∃ w : Word, step s = .next { served s rest with resp := .data w } ∧
      w.getLsbD 0 = s.ie ∧ ∀ i, 1 ≤ i → w.getLsbD i = false) ∧
    (WriteNext s 0x004 v rest → v.getLsbD 1 = false →
      ∃ t, step s = .next t ∧ t = { served s rest with resp := .written, ie := v.getLsbD 0 } ∧
        irq t = (s.status.done && v.getLsbD 0))

/-- R452: a write to CTRL with SRST = 1, whether or not BUSY = 1, abandons the running command, sets every register to
its reset value, leaves every window byte unchanged and makes the tables unreachable. -/
def Obligations.SoftReset : Prop :=
  ∀ (s : State) (v : Word) (rest : List BusStep), completionDue s = false → WriteNext s 0x004 v rest →
    v.getLsbD 1 = true →
      ∃ t, step s = .next t ∧ t.host = rest ∧ t.resp = .written ∧ t.params = s.params ∧
        (∀ r : Reg, readReg t r = if r = .id then 0x47464331 else 0) ∧
        (∀ d, t.vreg.getD d 0 = 0) ∧ (∀ i, t.poly.getD i 0 = 0) ∧
        NoField t ∧ NoCode t ∧ t.status.busy = false ∧ irq t = false ∧
        ∀ a, t.byteAt a = s.byteAt a

/-- R450, R451: when rst_n falls every register takes its reset value and a running command is abandoned; while rst_n = 0
an access is not answered and changes nothing, whatever its width and alignment; when rst_n rises the core goes on from
there, idle. The state the model starts from is at the reset values with rst_n = 1. What a window byte then holds is a free
value (log entry 2), so nothing is said of it. A WAIT without an answer lets the next edge of rst_n pass (log entry 16,
DESIGN CHOICE). -/
def Obligations.HardwareReset : Prop :=
  (∀ (s : State) (rest : List BusStep), completionDue s = false → s.rstN = true → s.host = .resetLow :: rest →
    ∃ t, step s = .next t ∧ t.host = rest ∧ t.params = s.params ∧ t.rstN = false ∧ AtResetValues t) ∧
  (∀ (s : State) (rest : List BusStep), s.status.busy = false → s.rstN = false →
    (∀ off width v, off < 0x10000 →
      (s.host = .read (s.params.base + off) width :: rest ∨ s.host = .write (s.params.base + off) width v :: rest) →
        step s = .next { served s rest with resp := .unanswered }) ∧
    (s.host = .wait :: rest →
      ((∀ h ∈ rest, h ≠ .resetLow ∧ h ≠ .resetHigh) →
        step s = .next { served s (.wait :: rest) with resp := .unanswered }) ∧
      (∀ before edge others, rest = before ++ edge :: others → (edge = .resetLow ∨ edge = .resetHigh) →
        (∀ h ∈ before, h ≠ .resetLow ∧ h ≠ .resetHigh) →
          step s = .next { served s (edge :: .wait :: (before ++ others)) with resp := .unanswered })) ∧
    (s.host = .resetLow :: rest → step s = .next (served s rest)) ∧
    (s.host = .resetHigh :: rest → step s = .next { served s rest with rstN := true })) ∧
  AtResetValues State.reset ∧ State.reset.rstN = true

/-- R84: a read has no side effect on any register or window. -/
def Obligations.ReadsHaveNoSideEffects : Prop :=
  ∀ (s t : State) (addr width : Nat) (rest : List BusStep), completionDue s = false →
    s.host = .read addr width :: rest → step s = .next t →
      t = { served s rest with resp := t.resp, draws := t.draws }

/-- R82: while rst_n = 1 an access of the region is answered with a bus error exactly when it is not 32 bits wide at
a 4-aligned offset, and a bus error has no effect on any state. -/
def Obligations.BusErrors : Prop :=
  ∀ (s : State) (off width : Nat) (v : Word) (rest : List BusStep), completionDue s = false → s.rstN = true →
    off < 0x10000 →
    (s.host = .read (s.params.base + off) width :: rest →
      ((width ≠ 4 ∨ off % 4 ≠ 0) →
        ∃ x, step s = .next { served s rest with resp := .error (some x), draws := s.draws + 1 }) ∧
      (width = 4 → off % 4 = 0 → ∃ t x, step s = .next t ∧ t.resp = .data x)) ∧
    (s.host = .write (s.params.base + off) width v :: rest →
      ((width ≠ 4 ∨ off % 4 ≠ 0) → step s = .next { served s rest with resp := .error none }) ∧
      (width = 4 → off % 4 = 0 → ∃ t, step s = .next t ∧ t.resp = .written))

/-- Reserved offsets, and the words of VREG and POLY beyond P_MMAX, which log entry 12 (DEDUCED) takes as reserved, read as
zero, ignore writes and raise no bus error (R54); while BUSY = 1 an ignored write still sets
WOB, as any other does (R53). That a reserved offset reads as zero while BUSY = 1 too, and what its lost write does then, is
log entry 12 (DEDUCED). -/
def Obligations.ReservedOffsets : Prop :=
  ∀ (s : State) (off : Nat) (v : Word) (rest : List BusStep), completionDue s = false →
    s.params.wf = true → off < 0x10000 → off % 4 = 0 →
    (reservedOffset s.params off ∨ beyondMmax s.params off) →
      (ReadNext s off rest → step s = .next { served s rest with resp := .data 0 }) ∧
      (WriteNext s off v rest → step s = .next { served s rest with
        resp := .written, status := { s.status with wob := s.status.wob || s.status.busy } })

/-- What the bus does with the registers while BUSY = 0 (the access codes before R31; R31 to R49, R84, R86, R410). A read
answers the value held: ERRCODE its code number, DSTAT its flags bit by bit, every other register, VREG[d] and POLY[i] its
word. A write of a read/write register, of VREG[d] or of POLY[i] stores exactly the word and changes nothing else; a
read-only register ignores the write. -/
def Obligations.RegisterReadback : Prop :=
  ∀ (s : State) (rest : List BusStep), s.status.busy = false → s.params.wf = true →
    (∀ x ∈ heldWords s, ReadNext s x.1 rest → step s = .next { served s rest with resp := .data x.2 }) ∧
    (∀ x ∈ errorNumbers, s.errcode = x.1 → ReadNext s 0x010 rest →
      step s = .next { served s rest with resp := .data x.2 }) ∧
    (ReadNext s 0x018 rest → ∃ w, step s = .next { served s rest with resp := .data w } ∧ ShowsDStat s.dstat w) ∧
    (∀ d < s.params.mmax, ReadNext s (0x0C0 + 4 * d) rest →
      step s = .next { served s rest with resp := .data (s.vreg.getD d 0) }) ∧
    (∀ i ≤ s.params.mmax, ReadNext s (0x100 + 4 * i) rest →
      step s = .next { served s rest with resp := .data (s.poly.getD i 0) }) ∧
    (∀ v, ∀ x ∈ writtenStates (served s rest) v, WriteNext s x.1 v rest →
      step s = .next { x.2 with resp := .written }) ∧
    (∀ v, ∀ d < s.params.mmax, WriteNext s (0x0C0 + 4 * d) v rest →
      ∃ t, step s = .next t ∧ t = { served s rest with resp := .written, vreg := t.vreg } ∧
        ∀ k < 16, t.vreg.getD k 0 = if k = d then v else s.vreg.getD k 0) ∧
    (∀ v, ∀ i ≤ s.params.mmax, WriteNext s (0x100 + 4 * i) v rest →
      ∃ t, step s = .next t ∧ t = { served s rest with resp := .written, poly := t.poly } ∧
        ∀ k < 17, t.poly.getD k 0 = if k = i then v else s.poly.getD k 0) ∧
    ∀ v, ∀ x ∈ readOnlyRegs, WriteNext s x.1 v rest → step s = .next { served s rest with resp := .written }

/-- A window word that the host may write holds the word written, byte lane 0 its bits 7:0, and no other byte changes;
a result window ignores the write (R45, R83, R86). A read of a word of any window answers its four bytes (R84). -/
def Obligations.WindowWrites : Prop :=
  ∀ (s : State) (w : Win) (i : Nat) (rest : List BusStep), s.status.busy = false → s.params.wf = true →
    Memory.wf s.win = true → i < s.params.nbuf →
    (ReadNext s (winBase w + 4 * i) rest → ∃ v : Word, step s = .next { served s rest with resp := .data v } ∧
      ∀ k < 4, v.extractLsb' (8 * k) 8 = s.byteAt (winBase w + 4 * i + k)) ∧
    ∀ v, WriteNext s (winBase w + 4 * i) v rest →
      (w ∉ [Win.out, Win.pos, Win.pr0, Win.pr1, Win.pr2] →
        ∃ t, step s = .next t ∧ t = { served s rest with resp := .written, win := t.win } ∧
          (∀ k < 4, t.byteAt (winBase w + 4 * i + k) = v.extractLsb' (8 * k) 8) ∧
          ∀ a, (a < winBase w + 4 * i ∨ winBase w + 4 * i + 4 ≤ a) → t.byteAt a = s.byteAt a) ∧
      (w ∈ [Win.out, Win.pos, Win.pr0, Win.pr1, Win.pr2] → step s = .next { served s rest with resp := .written })

/-- The matrix read ports (R49, R203, R204): over a built code entries of H and G inside the matrices, 0 outside; 0 while
CVALID = 0. -/
def Obligations.MatrixPorts : Prop :=
  (∀ (s : State) (rest : List BusStep), s.status.busy = false → s.status.cvalid = false →
    ReadNext s 0x074 rest ∨ ReadNext s 0x078 rest → step s = .next { served s rest with resp := .data 0 }) ∧
  ∀ (s : State) (rest : List BusStep), s.status.busy = false → CodeOk s →
    (ReadNext s 0x074 rest → step s = .next { served s rest with resp := .data (toWord
      (if s.mrow.toNat < s.cnB.toNat - s.ckB.toNat ∧ s.mcol.toNat < s.cnB.toNat then
        (if s.mcol.toNat < s.ckB.toNat then coord s (s.fmB.toNat + s.mcol.toNat + 1) (s.fmB.toNat - 1 - s.mrow.toNat)
          else if s.mcol.toNat = s.ckB.toNat + s.mrow.toNat then 1 else 0)
        else 0)) }) ∧
    (ReadNext s 0x078 rest → ∃ g, step s = .next { served s rest with resp := .data (toWord g) } ∧
      (s.mrow.toNat < s.ckB.toNat → s.mcol.toNat < s.ckB.toNat → g = if s.mrow = s.mcol then 1 else 0) ∧
      (s.mrow.toNat < s.ckB.toNat → s.ckB.toNat ≤ s.mcol.toNat → s.mcol.toNat < s.cnB.toNat →
        g < s.fqB.toNat ∧ (g + matAt (codeView s).H (s.mcol.toNat - s.ckB.toNat) s.mrow.toNat) % s.fqB.toNat = 0) ∧
      (s.ckB.toNat ≤ s.mrow.toNat ∨ s.cnB.toNat ≤ s.mcol.toNat → g = 0))

/-! ### Completion, errors, the invariant -/

/-- R400, R401: every command ends in one completion event, which sets DONE, ERR exactly on an error code, ERRINFO 0
without one, and BUSY to 0; CMD and WOB stay. -/
def Obligations.EveryCommandCompletes : Prop :=
  ∀ (i : Instr) (s : State), ∃ t, exec i s = .next t ∧ t.status.done = true ∧ t.status.busy = false ∧
    (t.status.err = true ↔ t.errcode ≠ .noError) ∧ (t.errcode = .noError → t.errinfo = 0) ∧
    t.cmd = s.cmd ∧ t.status.wob = s.status.wob ∧ t.ie = s.ie

/-- BUSY falls only at the completion of the command, by a write of CTRL.SRST or at a hardware reset (R400, R453); the
interrupt line rises only at a completion, or by a write of CTRL.IE over a DONE that stands (R420). -/
def Obligations.BusyFallsInterruptRises : Prop :=
  ∀ s t : State, step s = .next t →
    (s.status.busy = true → t.status.busy = false →
      completionDue s = true ∨ (∃ v rest, WriteNext s 0x004 v rest ∧ v.getLsbD 1 = true) ∨
        ∃ rest, s.host = .resetLow :: rest) ∧
    (irq s = false → irq t = true →
      (completionDue s = true ∧ s.ie = true ∧ t.status.busy = false) ∨
        (s.status.done = true ∧ ∃ v rest, WriteNext s 0x004 v rest ∧ v.getLsbD 0 = true ∧ v.getLsbD 1 = false))

/-- R412: every command but NOP and FBUILD first checks FVALID; ENC, SYND and HDEC then check CVALID; no other command
reports CODE_NOT_VALID. -/
def Obligations.InitializationBarrier : Prop :=
  ∀ (i : Instr) (s : State),
    (i ≠ .nop → i ≠ .fbuild → s.status.fvalid = false →
      exec i s = .next (complete .fieldNotValid 0 (if i = .cbuild then clearCode s else s))) ∧
    (i ∈ [Instr.enc, .synd, .hdec] → s.status.fvalid = true → s.status.cvalid = false →
      exec i s = .next (complete .codeNotValid 0 s)) ∧
    (i ∉ [Instr.enc, .synd, .hdec] → ∀ t, exec i s = .next t → t.errcode ≠ .codeNotValid) ∧
    (i ∈ [Instr.nop, .fbuild] → ∀ t, exec i s = .next t → t.errcode ≠ .fieldNotValid)

/-- R402: a command that raises an error changes ERRCODE, ERRINFO and STATUS, and beyond them only what its rule does on
start; the one exception is UNCORRECTABLE of BDEC. -/
def Obligations.ErrorsWriteNoOutput : Prop :=
  ∀ (i : Instr) (s t : State), exec i s = .next t → t.errcode ≠ .noError →
    ¬ (i = .bdec ∧ t.errcode = .uncorrectable) →
      t = complete t.errcode t.errinfo
        (if i = .fbuild then clearField s else if i = .cbuild then clearCode s else s)

/-- The errors each command can report (R413), in every state that meets the invariant. -/
def Obligations.ErrorsOfEachCommand : Prop :=
  ∀ (i : Instr) (s t : State), Inv s → exec i s = .next t →
    t.errcode = .noError ∨ t.errcode ∈ possibleErrors i

/-- The invariant holds after reset. -/
def Obligations.InvAtReset : Prop := Inv State.reset

/-- Every step keeps the invariant: legal parameters, canonical window memory, the field either absent or built (q prime,
q^m distinct rows, V2I the inverse map), the code either absent or built over it, the error registers in agreement, the
reset values while rst_n = 0. -/
def Obligations.InvPreserved : Prop :=
  ∀ s t : State, Inv s → step s = .next t → Inv t

/-- Only FBUILD changes the built field, and only FBUILD and CBUILD the built code (R40, R41, R50, R51, R91). -/
def Obligations.BuiltStateFrozen : Prop :=
  ∀ (i : Instr) (s t : State), exec i s = .next t →
    (i ≠ .fbuild → t.status.fvalid = s.status.fvalid ∧ t.fsize = s.fsize ∧ t.fqB = s.fqB ∧ t.fmB = s.fmB ∧
      t.elem = s.elem ∧ t.v2i = s.v2i) ∧
    (i ≠ .fbuild → i ≠ .cbuild → t.status.cvalid = s.status.cvalid ∧ t.cnB = s.cnB ∧ t.ckB = s.ckB ∧
      t.cvarB = s.cvarB ∧ t.csB = s.csB ∧ t.hmat = s.hmat)

/-! ### Field construction and elements -/

/-- R170: NOP completes with NONE and writes nothing but ERRCODE, ERRINFO and STATUS of the completion. -/
def Obligations.NopRule : Prop :=
  ∀ s : State, exec .nop s = .next { s with
    errcode := .noError
    errinfo := 0
    status := { s.status with busy := false, done := true, err := false } }

/-- The checks of FBUILD in their order (R151); the first that fails is reported. -/
def Obligations.FbuildChecks : Prop :=
  ∀ s : State,
    (¬ Nat.Prime s.fq.toNat →
      exec .fbuild s = .next (complete .incorrectCharacteristic s.fq (clearField s))) ∧
    (Nat.Prime s.fq.toNat → (s.fm.toNat < 1 ∨ s.params.mmax < s.fm.toNat) →
      exec .fbuild s = .next (complete .incorrectDegree s.fm (clearField s))) ∧
    (Nat.Prime s.fq.toNat → 1 ≤ s.fm.toNat → s.fm.toNat ≤ s.params.mmax →
      s.params.fsmax < s.fq.toNat ^ s.fm.toNat →
        exec .fbuild s = .next (complete .capacity 1 (clearField s))) ∧
    (Nat.Prime s.fq.toNat → 1 ≤ s.fm.toNat → s.fm.toNat ≤ s.params.mmax →
      s.fq.toNat ^ s.fm.toNat ≤ s.params.fsmax →
        (∀ i ≤ s.fm.toNat, s.fq.toNat ≤ (s.poly.getD i 0).toNat →
          (∀ j < i, (s.poly.getD j 0).toNat < s.fq.toNat) →
            exec .fbuild s = .next (complete .incorrectPolynomial (toWord i) (clearField s))) ∧
        ((∀ i ≤ s.fm.toNat, (s.poly.getD i 0).toNat < s.fq.toNat) → s.poly.getD s.fm.toNat 0 = 0 →
          exec .fbuild s = .next (complete .incorrectPolynomial s.fm (clearField s))))

/-- FBUILD builds (R151 to R155). For any table T that follows the recurrence of R153 from the normalised modulus of
R152: pairwise distinct rows are committed as ELEM, with V2I their inverse map and the snapshot; a repeated row ends in
FIELD_CONSTRUCTION with the smallest index that repeats an earlier one. -/
def Obligations.FbuildBuilds : Prop :=
  ∀ (s : State) (red : List Nat) (T : List (List Nat)), s.params.wf = true →
    Nat.Prime s.fq.toNat → 1 ≤ s.fm.toNat → s.fm.toNat ≤ s.params.mmax → s.fq.toNat ^ s.fm.toNat ≤ s.params.fsmax →
    (∀ i ≤ s.fm.toNat, (s.poly.getD i 0).toNat < s.fq.toNat) → s.poly.getD s.fm.toNat 0 ≠ 0 →
    (∀ i < s.fm.toNat, at0 red i < s.fq.toNat ∧
      (at0 red i * (s.poly.getD s.fm.toNat 0).toNat + (s.poly.getD i 0).toNat) % s.fq.toNat = 0) →
    T.length = s.fq.toNat ^ s.fm.toNat → (∀ row ∈ T, row.length = s.fm.toNat) →
    (∀ d, matAt T 0 d = 0) → (∀ d < s.fm.toNat, matAt T 1 d = if d = 0 then 1 else 0) →
    (∀ i, 2 ≤ i → i < T.length → ∀ d < s.fm.toNat,
      matAt T i d = ((if d = 0 then 0 else matAt T (i - 1) (d - 1)) +
        matAt T (i - 1) (s.fm.toNat - 1) * at0 red d) % s.fq.toNat) →
      (T.Nodup → ∃ t, exec .fbuild s = .next t ∧ t.errcode = .noError ∧
        t.elem = some T ∧ (∀ i < T.length, ∃ m, t.v2i = some m ∧ m.lookup (T.getD i []) = some i) ∧
        t.fqB = s.fq ∧ t.fmB = s.fm ∧ t.fsize.toNat = s.fq.toNat ^ s.fm.toNat ∧
        t.status.fvalid = true ∧ NoCode t) ∧
      (∀ i < T.length, T.getD i [] ∈ T.take i → (T.take i).Nodup →
        exec .fbuild s = .next (complete .fieldConstruction (toWord i) (clearField s)))

/-- FADD and FSUB act digit by digit on the coefficient vectors (R162, R163, R171, R172). -/
def Obligations.FaddFsubRule : Prop :=
  ∀ s : State, FieldOk s → s.opa.toNat < s.fsize.toNat → s.opb.toNat < s.fsize.toNat →
    (∃ c < s.fsize.toNat, exec .fadd s = .next (complete .noError 0 { s with result0 := toWord c }) ∧
      ∀ d < s.fmB.toNat, coord s c d = (coord s s.opa.toNat d + coord s s.opb.toNat d) % s.fqB.toNat) ∧
    (∃ c < s.fsize.toNat, exec .fsub s = .next (complete .noError 0 { s with result0 := toWord c }) ∧
      ∀ d < s.fmB.toNat, (coord s c d + coord s s.opb.toNat d) % s.fqB.toNat = coord s s.opa.toNat d)

/-- FMUL, FDIV and FINV by exponents modulo N (R164, R165, R167, R173, R174, R176), and FPOW with a signed exponent: for
a base that is not 0 the exponent product modulo N, 1 for e = 0 whatever the base, 0 for the base 0 and e > 0 (R166,
R175). -/
def Obligations.FmulFdivFinvFpowRule : Prop :=
  ∀ s : State, FieldOk s → s.opa.toNat < s.fsize.toNat →
    (s.opb.toNat < s.fsize.toNat →
      exec .fmul s = .next (complete .noError 0 { s with
        result0 := toWord (if s.opa = 0 ∨ s.opb = 0 then 0
          else ((s.opa.toNat - 1) + (s.opb.toNat - 1)) % (s.fsize.toNat - 1) + 1) })) ∧
    (s.opb.toNat < s.fsize.toNat → s.opb ≠ 0 →
      exec .fdiv s = .next (complete .noError 0 { s with
        result0 := toWord (if s.opa = 0 then 0
          else ((s.opa.toNat - 1) + ((s.fsize.toNat - 1) - (s.opb.toNat - 1))) % (s.fsize.toNat - 1) + 1) })) ∧
    (s.opa ≠ 0 →
      exec .finv s = .next (complete .noError 0 { s with
        result0 := toWord (((s.fsize.toNat - 1) - (s.opa.toNat - 1)) % (s.fsize.toNat - 1) + 1) })) ∧
    ((s.opa = 0 → 0 ≤ s.ope.toInt) →
      ∃ c < s.fsize.toNat, exec .fpow s = .next (complete .noError 0 { s with result0 := toWord c }) ∧
        (s.ope = 0 → c = 1) ∧ (s.opa = 0 → s.ope ≠ 0 → c = 0) ∧
        (s.opa ≠ 0 → 1 ≤ c ∧
          (((c : Int) - 1) - ((s.opa.toNat : Int) - 1) * s.ope.toInt) % ((s.fsize.toNat : Int) - 1) = 0))

/-- FI2V writes the coefficient vector of OPA to VREG, 0 up to P_MMAX; FV2I answers the element whose vector VREG holds
(R177, R178). -/
def Obligations.Fi2vFv2iRule : Prop :=
  ∀ s : State, FieldOk s → s.params.wf = true →
    (s.opa.toNat < s.fsize.toNat → ∃ t, exec .fi2v s = .next t ∧
      t = complete .noError 0 { s with vreg := t.vreg } ∧
      (∀ d < s.fmB.toNat, (t.vreg.getD d 0).toNat = coord s s.opa.toNat d) ∧
      ∀ d, s.fmB.toNat ≤ d → d < s.params.mmax → t.vreg.getD d 0 = 0) ∧
    ((∀ d < s.fmB.toNat, (s.vreg.getD d 0).toNat < s.fqB.toNat) →
      ∃ c < s.fsize.toNat, exec .fv2i s = .next (complete .noError 0 { s with result0 := toWord c }) ∧
        ∀ d < s.fmB.toNat, coord s c d = (s.vreg.getD d 0).toNat)

/-- The range and zero errors of the scalar field commands, in the order of their rules (R171 to R178, R403, R411). -/
def Obligations.ElementErrors : Prop :=
  ∀ s : State, s.status.fvalid = true →
    (s.fsize.toNat ≤ s.opa.toNat → ∀ i ∈ [Instr.fadd, .fsub, .fmul, .fdiv, .fpow, .finv, .fi2v],
      exec i s = .next (complete .operandRange 0x00010000 s)) ∧
    (s.opa.toNat < s.fsize.toNat → s.fsize.toNat ≤ s.opb.toNat → ∀ i ∈ [Instr.fadd, .fsub, .fmul, .fdiv],
      exec i s = .next (complete .operandRange 0x00020000 s)) ∧
    (s.opa.toNat < s.fsize.toNat → s.opb = 0 → exec .fdiv s = .next (complete .divisionByZero 0 s)) ∧
    (s.opa = 0 → 0 < s.fsize.toNat → exec .finv s = .next (complete .divisionByZero 0 s)) ∧
    (s.opa = 0 → 0 < s.fsize.toNat → s.ope.toInt < 0 → exec .fpow s = .next (complete .divisionByZero 0 s)) ∧
    (∀ d < s.fmB.toNat, s.fqB.toNat ≤ (s.vreg.getD d 0).toNat →
      (∀ j < d, (s.vreg.getD j 0).toNat < s.fqB.toNat) → d < 16 →
        exec .fv2i s = .next (complete .operandRange (0x00030000 ||| toWord d) s))

/-- The multiplicative laws and the additive group of the built field (R181). -/
def Obligations.FieldGroupLaws : Prop :=
  ∀ (s : State) (a b c : Nat), FieldOk s → a < s.fsize.toNat → b < s.fsize.toNat → c < s.fsize.toNat →
    gadd (fieldView s) a b = gadd (fieldView s) b a ∧
    gadd (fieldView s) (gadd (fieldView s) a b) c = gadd (fieldView s) a (gadd (fieldView s) b c) ∧
    gadd (fieldView s) a 0 = a ∧ gsub (fieldView s) a a = 0 ∧
    gsub (fieldView s) a b = gadd (fieldView s) a (gsub (fieldView s) 0 b) ∧
    gmul (fieldView s) a b = gmul (fieldView s) b a ∧
    gmul (fieldView s) (gmul (fieldView s) a b) c = gmul (fieldView s) a (gmul (fieldView s) b c) ∧
    gmul (fieldView s) a 1 = a ∧ (a ≠ 0 → gmul (fieldView s) a (ginv (fieldView s) a) = 1) ∧
    (b ≠ 0 → gmul (fieldView s) (gdiv (fieldView s) a b) b = a) ∧
    (s.fqB = 2 → gsub (fieldView s) a b = gadd (fieldView s) a b)

/-- Multiplication by exponents distributes over digit-wise addition (R181, which rests on R156(d)): the table that
passed the distinctness check is a field. -/
def Obligations.FieldDistributive : Prop :=
  ∀ (s : State) (a b c : Nat), FieldOk s → a < s.fsize.toNat → b < s.fsize.toNat → c < s.fsize.toNat →
    gmul (fieldView s) a (gadd (fieldView s) b c) =
      gadd (fieldView s) (gmul (fieldView s) a b) (gmul (fieldView s) a c)

/-- The frame of NOP and the commands whose one output is RESULT0: nothing else changes but STATUS.BUSY, DONE, ERR and
the error registers, on every path; NOP leaves RESULT0 too (R38, R123, R170). -/
def Obligations.ScalarFrame : Prop :=
  ∀ (i : Instr) (s t : State),
    i ∈ [Instr.nop, .fadd, .fsub, .fmul, .fdiv, .fpow, .finv, .fv2i, .peval] → exec i s = .next t →
      t = { s with
        errcode := t.errcode, errinfo := t.errinfo, result0 := t.result0
        status := { s.status with busy := false, done := true, err := t.status.err } } ∧
      (i = .nop → t.result0 = s.result0) ∧ ∀ a, t.byteAt a = s.byteAt a

/-- The frame of FI2V (VREG its only output), FBUILD and CBUILD (the built field and code): no other register and no
byte of any window changes (R123, R155, R206). -/
def Obligations.BuildFrame : Prop :=
  ∀ (i : Instr) (s t : State), i ∈ [Instr.fi2v, .fbuild, .cbuild] → exec i s = .next t →
    (∀ a, t.byteAt a = s.byteAt a) ∧
    (i = .fi2v → t = { s with
      errcode := t.errcode, errinfo := t.errinfo, vreg := t.vreg
      status := { s.status with busy := false, done := true, err := t.status.err } }) ∧
    (i = .cbuild → t = { s with
      errcode := t.errcode, errinfo := t.errinfo
      cnB := t.cnB, ckB := t.ckB, cvarB := t.cvarB, csB := t.csB, hmat := t.hmat
      status := { s.status with busy := false, done := true, err := t.status.err, cvalid := t.status.cvalid } }) ∧
    (i = .fbuild → t = { s with
      errcode := t.errcode, errinfo := t.errinfo
      fsize := t.fsize, fqB := t.fqB, fmB := t.fmB, elem := t.elem, v2i := t.v2i
      cnB := 0, ckB := 0, cvarB := 0, csB := 0, hmat := none
      status := { s.status with
        busy := false, done := true, err := t.status.err, fvalid := t.status.fvalid, cvalid := false } })

/-! ### The linear code -/

/-- The checks of CBUILD (R201), ENC (R210), SYND and HDEC (R213) over a valid field, in their order; the first that
fails is reported, and within a window the smallest bad index (R403). -/
def Obligations.CodeErrors : Prop :=
  ∀ s : State, s.status.fvalid = true →
    (s.ck.toNat < 1 ∨ s.cn.toNat ≤ s.ck.toNat →
      exec .cbuild s = .next (complete .construction 1 (clearCode s))) ∧
    (1 ≤ s.ck.toNat → s.ck.toNat < s.cn.toNat →
      (s.cn.toNat - s.ck.toNat ≠ s.fmB.toNat →
        exec .cbuild s = .next (complete .construction 2 (clearCode s))) ∧
      (s.cn.toNat - s.ck.toNat = s.fmB.toNat →
        ((s.fsize.toNat - 1) / (s.fqB.toNat - 1) < s.cn.toNat →
          exec .cbuild s = .next (complete .construction 3 (clearCode s))) ∧
        (s.cn.toNat ≤ (s.fsize.toNat - 1) / (s.fqB.toNat - 1) →
          (s.params.nbuf - 1 < s.cn.toNat → exec .cbuild s = .next (complete .capacity 2 (clearCode s))) ∧
          (s.cn.toNat ≤ s.params.nbuf - 1 →
            (2 < s.cvar.toNat → exec .cbuild s = .next (complete .construction 4 (clearCode s))) ∧
            (s.cvar = 1 → min s.cn.toNat s.ck.toNat ≤ s.cs.toNat →
              exec .cbuild s = .next (complete .invalidShortening s.cs (clearCode s))))))) ∧
    (s.status.cvalid = true → ∀ i < (codeView s).infoLen, s.fqB.toNat ≤ winNat s .info i →
      (∀ j < i, winNat s .info j < s.fqB.toNat) →
        exec .enc s = .next (complete .operandRange (0x00050000 ||| toWord i) s)) ∧
    (s.status.cvalid = true → ∀ c ∈ [Instr.synd, .hdec],
      (s.params.nbuf < s.neras.toNat → exec c s = .next (complete .capacity 5 s)) ∧
      (s.neras.toNat ≤ s.params.nbuf → ∀ i < s.neras.toNat, (codeView s).wireLen ≤ winNat s .eras i →
        (∀ j < i, winNat s .eras j < (codeView s).wireLen) →
          exec c s = .next (complete .operandRange (0x00080000 ||| toWord i) s)))

/-- CBUILD builds (R201 to R206): over a built field and a legal configuration it commits the snapshot and H = [P | I],
whose column j of P holds the coefficients of x^(m + j), highest degree in row 0; every row of H is orthogonal to every
row of G = [I | -P^t]. -/
def Obligations.CbuildBuilds : Prop :=
  ∀ s : State, FieldOk s → 1 ≤ s.ck.toNat → s.ck.toNat < s.cn.toNat → s.cn.toNat - s.ck.toNat = s.fmB.toNat →
    s.cn.toNat ≤ (s.fsize.toNat - 1) / (s.fqB.toNat - 1) → s.cn.toNat ≤ s.params.nbuf - 1 → s.cvar.toNat ≤ 2 →
    (s.cvar = 1 → s.cs.toNat < min s.cn.toNat s.ck.toNat) →
      ∃ t, exec .cbuild s = .next t ∧ t.errcode = .noError ∧ t.status.cvalid = true ∧
        t.cnB = s.cn ∧ t.ckB = s.ck ∧ t.cvarB = s.cvar ∧ t.csB = (if s.cvar = 1 then s.cs else 0) ∧
        (∀ i < s.fmB.toNat, ∀ j < s.cn.toNat, matAt (codeView t).H i j =
          if j < s.ck.toNat then coord s (s.fmB.toNat + j + 1) (s.fmB.toNat - 1 - i)
          else if j = s.ck.toNat + i then 1 else 0) ∧
        (∀ i < s.fmB.toNat, ∀ l < s.ck.toNat,
          sumBelow s.cn.toNat (fun j => matAt (codeView t).H i j *
            genAt s.fqB.toNat s.ck.toNat (codeView t).H l j) % s.fqB.toNat = 0)

/-- ENC writes the systematic code word of INFO (R210): its first K' symbols are INFO, every row of H sums it to 0, an
Extended word sums to 0, and RESULT0 is the wire length. These determine the word. -/
def Obligations.EncRule : Prop :=
  ∀ s : State, Inv s → CodeOk s → (∀ i < (codeView s).infoLen, winNat s .info i < s.fqB.toNat) →
    ∃ t, exec .enc s = .next t ∧ t.errcode = .noError ∧ t.result0 = toWord (codeView s).wireLen ∧
      IsCodeword s (winNat t .out) ∧ ∀ i < (codeView s).infoLen, winNat t .out i = winNat s .info i

/-- SYND writes the syndrome of the received word with erasures read as 0 (R213 to R215): SYN, RESULT0 whether it is
nonzero, RESULT1 the overall parity sum of an Extended word. -/
def Obligations.SyndRule : Prop :=
  ∀ s : State, Inv s → CodeOk s → ErasuresOk s →
    ∃ t, exec .synd s = .next t ∧ t.errcode = .noError ∧
      (∀ i < s.fmB.toNat, winNat t .syn i =
        sumBelow (coveredLen s) (fun j => wireH s i j * receivedSymbol s j) % s.fqB.toNat) ∧
      t.result0 = (if ∀ i < s.fmB.toNat, winNat t .syn i = 0 then 0 else 1) ∧
      t.result1 = (if s.cvarB = 2 then
        toWord (sumBelow (s.cnB.toNat + 1) (receivedSymbol s) % s.fqB.toNat) else 0)

/-- HDEC always completes without error once its checks pass, INFO holds the systematic part of OUT, and the flags of
DSTAT agree with each other and with the erasures as R242 to R253 list them: ERAS_OK exactly when the erased columns of H
have full rank (R244). R254 (d): with q = 2 an Extended code word with two symbols flipped below position n sets DETECT_ONLY
and DOUBLE_DETECT and is given back as received. -/
def Obligations.HdecFlags : Prop :=
  ∀ s : State, Inv s → CodeOk s → ErasuresOk s →
    ∃ t, exec .hdec s = .next t ∧ t.errcode = .noError ∧
      (∀ j < (codeView s).wireLen, winNat t .out j < s.fqB.toNat) ∧
      (∀ i < (codeView s).infoLen, winNat t .info i = winNat t .out i) ∧
      (t.dstat.erased = true ↔ ∃ j < coveredLen s,
        s.fqB.toNat ≤ winNat s .inp j ∨ ∃ x < s.neras.toNat, winNat s .eras x = j) ∧
      (t.dstat.parityErased = true ↔ s.cvarB = 2 ∧
        (s.fqB.toNat ≤ winNat s .inp s.cnB.toNat ∨ ∃ x < s.neras.toNat, winNat s .eras x = s.cnB.toNat)) ∧
      (t.dstat.erasOk || t.dstat.erasFail) = t.dstat.erased ∧ (t.dstat.erasOk && t.dstat.erasFail) = false ∧
      (t.dstat.corrected && t.dstat.detectOnly) = false ∧
      (t.dstat.punctured = true → t.dstat.detectOnly = true ∧ s.cvarB = 1 ∧ t.result0.toNat < s.csB.toNat) ∧
      (t.dstat.doubleDetect = true → t.dstat.detectOnly = true ∧ s.cvarB = 2 ∧ t.dstat.parityErased = false) ∧
      (t.dstat.parityFixed = true → s.cvarB = 2 ∧ t.dstat.parityErased = false ∧ t.dstat.corrected = false ∧
        t.dstat.detectOnly = false) ∧
      (t.dstat.corrected = true → s.csB.toNat ≤ t.result0.toNat ∧ t.result0.toNat < s.cnB.toNat) ∧
      (t.result0 = 0xFFFFFFFF ↔ t.result1 = 0) ∧
      t.dstat.bszero = false ∧ t.dstat.lmismatch = false ∧ t.dstat.buncorr = false ∧
      (t.dstat.erasOk = true ↔ (∃ j < coveredLen s, IsErased s j) ∧ ErasedIndependent s) ∧
      ∀ (c : Nat → Nat) (a b : Nat), s.fqB = 2 → s.cvarB = 2 → s.neras = 0 → IsCodeword s c →
        a < s.cnB.toNat → b < s.cnB.toNat → a ≠ b →
        (∀ j < s.cnB.toNat + 1, winNat s .inp j = if j = a ∨ j = b then 1 - c j else c j) →
          t.dstat = { DStat.clear with detectOnly := true, doubleDetect := true } ∧
            ∀ j < s.cnB.toNat + 1, winNat t .out j = winNat s .inp j

/-- Whatever was received, the word HDEC writes is a code word unless DETECT_ONLY is set (R246 to R251): a correction is
applied only where it makes the syndrome 0. With `fill` the received word whose erased positions are filled (all 0 under
ERAS_FAIL; under ERAS_OK with what the elimination of R244 gives, to a zero syndrome wherever that is possible, R245), SYN is
the syndrome of `fill` (R246), the flags follow from it (R247, R249 to R251), and OUT is `fill` but for the one symbol
corrected: under DETECT_ONLY the filled word goes out as it is (R247, R250, R252). The parity symbol of an Extended word stays
unless it is erased, fixed or recomputed. -/
def Obligations.HdecOutputsCodeword : Prop :=
  ∀ s : State, Inv s → CodeOk s → ErasuresOk s →
    ∃ t fill, exec .hdec s = .next t ∧ (t.dstat.detectOnly = false → IsCodeword s (winNat t .out)) ∧
      (∀ j < coveredLen s, fill j < s.fqB.toNat ∧ (¬ IsErased s j → fill j = winNat s .inp j) ∧
        (IsErased s j → t.dstat.erasFail = true → fill j = 0)) ∧
      (∀ i < s.fmB.toNat, winNat t .syn i = rowTimes s i fill) ∧
      (t.dstat.erasOk = true → ErasuresSolved s fill) ∧
      (t.dstat.erasOk = true → ErasuresConsistent s → ∀ i < s.fmB.toNat, winNat t .syn i = 0) ∧
      (s.cvarB ≠ 2 ∨ t.dstat.parityErased = true → ClassicFlags s (winNat t .syn) t.dstat) ∧
      (s.cvarB = 2 → t.dstat.parityErased = false →
        ExtendedFlags s (winNat t .syn)
          ((sumBelow s.cnB.toNat fill + winNat s .inp s.cnB.toNat) % s.fqB.toNat) t.dstat) ∧
      (t.result0 ≠ 0xFFFFFFFF → SyndromeMatches s (winNat t .syn) t.result0.toNat t.result1.toNat) ∧
      (t.result0 ≠ 0xFFFFFFFF ↔ t.dstat.corrected = true ∨ t.dstat.punctured = true) ∧
      (∀ j < coveredLen s, winNat t .out j =
        if t.dstat.corrected = true ∧ t.result0.toNat = s.csB.toNat + j
        then (fill j + (s.fqB.toNat - t.result1.toNat)) % s.fqB.toNat else fill j) ∧
      (s.cvarB = 2 → t.dstat.parityErased = true → sumBelow (s.cnB.toNat + 1) (winNat t .out) % s.fqB.toNat = 0) ∧
      (s.cvarB = 2 → t.dstat.parityErased = false → t.dstat.detectOnly = true →
        winNat t .out s.cnB.toNat = winNat s .inp s.cnB.toNat)

/-- R254 (b): a code word with one symbol changed by a in [1, q) is given back by HDEC with its information word; the
location and magnitude are reported, or PARITY_FIXED for the overall-parity symbol of an Extended word. -/
def Obligations.HdecSingleError : Prop :=
  ∀ (s : State) (c : Nat → Nat) (j a : Nat), Inv s → CodeOk s → s.neras = 0 → IsCodeword s c →
    j < (codeView s).wireLen → 1 ≤ a → a < s.fqB.toNat →
    (∀ i < (codeView s).wireLen, winNat s .inp i = if i = j then (c i + a) % s.fqB.toNat else c i) →
      ∃ t, exec .hdec s = .next t ∧ t.errcode = .noError ∧
        (∀ i < (codeView s).wireLen, winNat t .out i = c i) ∧
        (∀ i < (codeView s).infoLen, winNat t .info i = c i) ∧
        (j < coveredLen s → t.dstat = { DStat.clear with corrected := true } ∧
          t.result0 = toWord (s.csB.toNat + j) ∧ t.result1 = toWord a) ∧
        (coveredLen s ≤ j → t.dstat = { DStat.clear with parityFixed := true } ∧
          t.result0 = 0xFFFFFFFF ∧ t.result1 = 0)

/-- R254 (c): a code word with one or two erased positions, named by a symbol outside [0, q) or by ERAS, is filled
exactly. -/
def Obligations.HdecFillsErasures : Prop :=
  ∀ (s : State) (c : Nat → Nat) (a b : Nat), Inv s → CodeOk s → ErasuresOk s → IsCodeword s c →
    a < coveredLen s → b < coveredLen s →
    (∀ j < (codeView s).wireLen,
      (s.fqB.toNat ≤ winNat s .inp j ∨ ∃ x < s.neras.toNat, winNat s .eras x = j) ↔ (j = a ∨ j = b)) →
    (∀ j < (codeView s).wireLen, j ≠ a → j ≠ b → winNat s .inp j = c j) →
      ∃ t, exec .hdec s = .next t ∧ t.errcode = .noError ∧
        (∀ i < (codeView s).wireLen, winNat t .out i = c i) ∧
        (∀ i < (codeView s).infoLen, winNat t .info i = c i) ∧
        t.dstat = { DStat.clear with erased := true, erasOk := true }

/-- R254 (a): HDEC of the word ENC wrote, received without noise, gives the code word and the information word back with
no flag, no location and a zero syndrome. -/
def Obligations.EncThenHdec : Prop :=
  ∀ s t u : State, Inv s → CodeOk s → (∀ i < (codeView s).infoLen, winNat s .info i < s.fqB.toNat) →
    exec .enc s = .next t → Inv u → u.neras = 0 → u.params = t.params →
    u.status.fvalid = t.status.fvalid → u.status.cvalid = t.status.cvalid →
    fieldView u = fieldView t → codeView u = codeView t → u.elem = t.elem → u.v2i = t.v2i → u.hmat = t.hmat →
    (∀ j < (codeView s).wireLen, winNat u .inp j = winNat t .out j) →
      ∃ v, exec .hdec u = .next v ∧ v.errcode = .noError ∧
        (∀ j < (codeView s).wireLen, winNat v .out j = winNat t .out j) ∧
        (∀ i < (codeView s).infoLen, winNat v .info i = winNat s .info i) ∧
        (∀ i < s.fmB.toNat, winNat v .syn i = 0) ∧
        v.dstat = DStat.clear ∧ v.result0 = 0xFFFFFFFF ∧ v.result1 = 0

/-- The frame of ENC, SYND and HDEC: the registers each writes, and every byte outside the words it stores, OUT[0..W-1],
SYN[0..r-1] and INFO[0..K'-1] (R123, R241, R252); nothing is stored when the command reports an error. -/
def Obligations.CodeFrame : Prop :=
  ∀ s t : State, Memory.wf s.win = true →
    (exec .enc s = .next t →
      t = { s with
        errcode := t.errcode, errinfo := t.errinfo, result0 := t.result0, win := t.win
        status := { s.status with busy := false, done := true, err := t.status.err } } ∧
      (∀ a, ¬ inWindow .out (codeView s).wireLen a → t.byteAt a = s.byteAt a) ∧
      (t.errcode ≠ .noError → ∀ a, t.byteAt a = s.byteAt a)) ∧
    (exec .synd s = .next t →
      t = { s with
        errcode := t.errcode, errinfo := t.errinfo, result0 := t.result0, result1 := t.result1, win := t.win
        status := { s.status with busy := false, done := true, err := t.status.err } } ∧
      (∀ a, ¬ inWindow .syn (codeView s).r a → t.byteAt a = s.byteAt a) ∧
      (t.errcode ≠ .noError → ∀ a, t.byteAt a = s.byteAt a)) ∧
    (exec .hdec s = .next t →
      t = { s with
        errcode := t.errcode, errinfo := t.errinfo, result0 := t.result0, result1 := t.result1, win := t.win
        dstat := t.dstat
        status := { s.status with busy := false, done := true, err := t.status.err } } ∧
      (∀ a, ¬ inWindow .out (codeView s).wireLen a → ¬ inWindow .info (codeView s).infoLen a →
        ¬ inWindow .syn (codeView s).r a → t.byteAt a = s.byteAt a) ∧
      (t.errcode ≠ .noError → ∀ a, t.byteAt a = s.byteAt a))

/-! ### The BCH path -/

/-- The errors of the BCH and polynomial commands over a valid field, in their order: NOT_BINARY (R188, R280), then NCHK,
TCHK and the window ranges of R280, R284 and R290, and the checks of R188, R190, R191 and R192. -/
def Obligations.BinaryErrors : Prop :=
  ∀ s : State, s.status.fvalid = true →
    (s.fqB ≠ 2 →
      ∀ i ∈ [Instr.bsyn, .bm, .chien, .bdec, .padd, .psub, .pmul, .pdivmod, .peval, .pgcd, .pxgcd, .pderiv],
        exec i s = .next (complete .notBinary s.fqB s)) ∧
    (s.fqB = 2 →
      (∀ i ∈ [Instr.bsyn, .bdec, .chien],
        (s.bn.toNat < 1 ∨ s.fsize.toNat - 1 < s.bn.toNat → exec i s = .next (complete .construction 5 s)) ∧
        (1 ≤ s.bn.toNat → s.bn.toNat ≤ s.fsize.toNat - 1 → s.params.nbuf < s.bn.toNat →
          exec i s = .next (complete .capacity 3 s))) ∧
      (∀ i ∈ [Instr.bsyn, .bdec, .bm], (BchLength s ∨ i = .bm) →
        (s.bt.toNat < 1 → exec i s = .next (complete .construction 6 s)) ∧
        (1 ≤ s.bt.toNat → s.params.tmax < s.bt.toNat → exec i s = .next (complete .capacity 4 s))) ∧
      (BchLength s → BchCapacity s → ∀ j < s.bn.toNat, 1 < winNat s .inp j → (∀ x < j, winNat s .inp x ≤ 1) →
        ∀ i ∈ [Instr.bsyn, .bdec], exec i s = .next (complete .operandRange (0x00040000 ||| toWord j) s)) ∧
      (BchCapacity s → ∀ u < 2 * s.bt.toNat, s.fsize.toNat ≤ winNat s .syn u →
        (∀ x < u, winNat s .syn x < s.fsize.toNat) →
          exec .bm s = .next (complete .operandRange (0x00060000 ||| toWord u) s)) ∧
      (BchLength s → s.params.nbuf < s.llen.toNat → exec .chien s = .next (complete .capacity 9 s)) ∧
      (BchLength s → s.llen.toNat ≤ s.params.nbuf → ∀ x < s.llen.toNat, s.fsize.toNat ≤ winNat s .lambda x →
        (∀ y < x, winNat s .lambda y < s.fsize.toNat) →
          exec .chien s = .next (complete .operandRange (0x00070000 ||| toWord x) s)) ∧
      (s.params.plen < s.palen.toNat →
        ∀ i ∈ [Instr.padd, .psub, .pmul, .pdivmod, .peval, .pgcd, .pxgcd, .pderiv],
          exec i s = .next (complete .capacity 6 s)) ∧
      (s.palen.toNat ≤ s.params.plen → s.params.plen < s.pblen.toNat →
        ∀ i ∈ [Instr.padd, .psub, .pmul, .pdivmod, .pgcd, .pxgcd], exec i s = .next (complete .capacity 7 s)) ∧
      (s.palen.toNat ≤ s.params.plen → ∀ x < s.palen.toNat, s.fsize.toNat ≤ winNat s .pa x →
        (∀ y < x, winNat s .pa y < s.fsize.toNat) →
          ∀ i ∈ [Instr.padd, .psub, .pmul, .pdivmod, .peval, .pgcd, .pxgcd, .pderiv],
            (s.pblen.toNat ≤ s.params.plen ∨ i = .peval ∨ i = .pderiv) →
              exec i s = .next (complete .operandRange (0x00090000 ||| toWord x) s)) ∧
      (OperandA s → s.pblen.toNat ≤ s.params.plen → ∀ x < s.pblen.toNat, s.fsize.toNat ≤ winNat s .pb x →
        (∀ y < x, winNat s .pb y < s.fsize.toNat) →
          ∀ i ∈ [Instr.padd, .psub, .pmul, .pdivmod, .pgcd, .pxgcd],
            exec i s = .next (complete .operandRange (0x000A0000 ||| toWord x) s)) ∧
      (OperandA s → s.fsize.toNat ≤ s.opa.toNat →
        exec .peval s = .next (complete .operandRange 0x00010000 s)) ∧
      (OperandA s → OperandB s → (∀ x < s.pblen.toNat, winNat s .pb x = 0) →
        exec .pdivmod s = .next (complete .divisionByZero 0 s)))

/-- BSYN writes the 2t syndromes of the received bits (R281, R282), and RESULT0 whether one is nonzero. -/
def Obligations.BsynRule : Prop :=
  ∀ s : State, Inv s → BinaryField s → BchLength s → BchCapacity s → BchBits s →
    ∃ t, exec .bsyn s = .next t ∧ t.errcode = .noError ∧
      (∀ u < 2 * s.bt.toNat, IsBchSyndrome s u (winNat t .syn u)) ∧
      t.result0 = (if ∀ u < 2 * s.bt.toNat, winNat t .syn u = 0 then 0 else 1)

/-- BM writes the locator and the L that the recurrence of R285 ends with after 2t passes, the locator trimmed (R284). Its
constant term is 1, its length at most L + 1, L is at most 2t, LREG and RESULT0 are L, and a zero sequence gives the locator
1 with L = 0 (R286). -/
def Obligations.BmRule : Prop :=
  ∀ s : State, Inv s → BinaryField s → BchCapacity s → (∀ u < 2 * s.bt.toNat, winNat s .syn u < s.fsize.toNat) →
    ∃ t len L, exec .bm s = .next t ∧ t.errcode = .noError ∧ t.llen = toWord len ∧ t.lreg = toWord L ∧
      t.result0 = toWord L ∧ len ≤ L + 1 ∧ L ≤ 2 * s.bt.toNat ∧ winNat t .lambda 0 = 1 ∧ Trimmed t .lambda len ∧
      (∀ i < len, winNat t .lambda i < s.fsize.toNat) ∧
      (∃ loc aux lens mc bd disc quo, BmRun s loc aux lens mc bd disc quo ∧ lens (2 * s.bt.toNat) = L ∧
        ∀ i, coeff t .lambda len i = loc (2 * s.bt.toNat) i) ∧
      ((∀ u < 2 * s.bt.toNat, winNat s .syn u = 0) → len = 1 ∧ L = 0)

/-- The locator BM writes generates the syndrome sequence from position L on (the purpose of R285: each discrepancy is
brought to 0), and no sequence of elements with constant term 1 generates it from an earlier position: L is the least
length (R285 'minimal locator', R286 'minimal-degree'). -/
def Obligations.BmGeneratesSequence : Prop :=
  ∀ s t : State, Inv s → BinaryField s → BchCapacity s → (∀ u < 2 * s.bt.toNat, winNat s .syn u < s.fsize.toNat) →
    exec .bm s = .next t →
      Generates s (coeff t .lambda t.llen.toNat) t.lreg.toNat ∧
      ∀ (c : Nat → Nat) (L : Nat), c 0 = 1 → (∀ i, c i < s.fsize.toNat) → Generates s c L → t.lreg.toNat ≤ L

/-- CHIEN lists exactly the positions p below n at which the locator is 0 at x^(-p), in increasing order, and counts them
(R290); a length of 0 reads as the zero polynomial, so every position is listed (R291). -/
def Obligations.ChienRule : Prop :=
  ∀ s : State, Inv s → BinaryField s → BchLength s → s.llen.toNat ≤ s.params.nbuf →
    (∀ i < s.llen.toNat, winNat s .lambda i < s.fsize.toNat) →
    ∃ t cnt, exec .chien s = .next t ∧ t.errcode = .noError ∧ t.result0 = toWord cnt ∧ cnt ≤ s.bn.toNat ∧
      (∀ c, c + 1 < cnt → winNat t .pos c < winNat t .pos (c + 1)) ∧
      ∀ p, (∃ c < cnt, winNat t .pos c = p) ↔
        p < s.bn.toNat ∧ IsXorSum s 0 (List.range s.llen.toNat) fun i =>
          mulIndex s (winNat s .lambda i) (powIndex s ((s.fsize.toNat - 1 - p) % (s.fsize.toNat - 1) + 1) i)

/-- BDEC of a word whose 2t syndromes are all 0 (R295 step 2, R296): BSZERO and no other flag, OUT = IN, the locator 1
with L = 0, both results 0, and POS not written. -/
def Obligations.BdecCleanWord : Prop :=
  ∀ s : State, Inv s → BinaryField s → BchLength s → BchCapacity s → BchBits s →
    (∀ u < 2 * s.bt.toNat, IsBchSyndrome s u 0) →
    ∃ t, exec .bdec s = .next t ∧ t.errcode = .noError ∧ t.dstat = { DStat.clear with bszero := true } ∧
      (∀ u < 2 * s.bt.toNat, winNat t .syn u = 0) ∧ (∀ j < s.bn.toNat, winNat t .out j = winNat s .inp j) ∧
      winNat t .lambda 0 = 1 ∧ t.llen = 1 ∧ t.lreg = 0 ∧ t.result0 = 0 ∧ t.result1 = 0 ∧
      ∀ a, inWindow .pos 1024 a → t.byteAt a = s.byteAt a

/-- BDEC is BSYN, BM and CHIEN run one after the other, with the located bits flipped (R295 steps 3 to 6, R297): the same
syndromes, locator, L, positions and count; LMISMATCH when the count is not L; more than t positions leave the word
unmodified and complete with UNCORRECTABLE and the count as detail, the outputs written. -/
def Obligations.BdecComposes : Prop :=
  ∀ s : State, Inv s → BinaryField s → BchLength s → BchCapacity s → BchBits s →
    ¬ (∀ u < 2 * s.bt.toNat, IsBchSyndrome s u 0) →
    ∃ s1 s2 s3 t, exec .bsyn s = .next s1 ∧ exec .bm s1 = .next s2 ∧ exec .chien s2 = .next s3 ∧
      exec .bdec s = .next t ∧
      s1.errcode = .noError ∧ s2.errcode = .noError ∧ s3.errcode = .noError ∧
      (∀ u < 2 * s.bt.toNat, winNat t .syn u = winNat s1 .syn u) ∧
      t.llen = s2.llen ∧ t.lreg = s2.lreg ∧ (∀ i < t.llen.toNat, winNat t .lambda i = winNat s2 .lambda i) ∧
      (∀ c < s3.result0.toNat, winNat t .pos c = winNat s3 .pos c) ∧
      t.result0 = s3.result0 ∧ t.result1 = s2.lreg ∧
      t.errcode = (if s.bt.toNat < s3.result0.toNat then .uncorrectable else .noError) ∧
      t.errinfo = (if s.bt.toNat < s3.result0.toNat then s3.result0 else 0) ∧
      t.dstat = { DStat.clear with
        lmismatch := s3.result0 != s2.lreg, buncorr := decide (s.bt.toNat < s3.result0.toNat) } ∧
      ∀ j < s.bn.toNat, winNat t .out j =
        if s3.result0.toNat ≤ s.bt.toNat ∧ ∃ c < s3.result0.toNat, winNat s3 .pos c = j
        then 1 - winNat s .inp j else winNat s .inp j

/-- The frame of BSYN, BM, CHIEN and BDEC: the registers each writes, and every byte outside the words it stores (R123,
R281, R284, R290, R295); nothing is stored when the check phase reports an error. -/
def Obligations.BchFrame : Prop :=
  ∀ s t : State, Memory.wf s.win = true →
    (exec .bsyn s = .next t →
      t = { s with
        errcode := t.errcode, errinfo := t.errinfo, result0 := t.result0, win := t.win
        status := { s.status with busy := false, done := true, err := t.status.err } } ∧
      (∀ a, ¬ inWindow .syn (2 * s.bt.toNat) a → t.byteAt a = s.byteAt a) ∧
      (t.errcode ≠ .noError → ∀ a, t.byteAt a = s.byteAt a)) ∧
    (exec .bm s = .next t →
      t = { s with
        errcode := t.errcode, errinfo := t.errinfo, result0 := t.result0, win := t.win, llen := t.llen, lreg := t.lreg
        status := { s.status with busy := false, done := true, err := t.status.err } } ∧
      (∀ a, ¬ inWindow .lambda
          (berlekampMassey (fieldView s) (winNats s .syn (2 * s.bt.toNat)) (2 * s.bt.toNat)).1.length a →
        t.byteAt a = s.byteAt a) ∧
      (t.errcode ≠ .noError → ∀ a, t.byteAt a = s.byteAt a)) ∧
    (exec .chien s = .next t →
      t = { s with
        errcode := t.errcode, errinfo := t.errinfo, result0 := t.result0, win := t.win
        status := { s.status with busy := false, done := true, err := t.status.err } } ∧
      (∀ a, ¬ inWindow .pos
          (chienPositions (fieldView s) s.bn.toNat (trim (winNats s .lambda s.llen.toNat))).length a →
        t.byteAt a = s.byteAt a) ∧
      (t.errcode ≠ .noError → ∀ a, t.byteAt a = s.byteAt a)) ∧
    (exec .bdec s = .next t →
      t = { s with
        errcode := t.errcode, errinfo := t.errinfo, result0 := t.result0, result1 := t.result1, win := t.win
        llen := t.llen, lreg := t.lreg, dstat := t.dstat
        status := { s.status with busy := false, done := true, err := t.status.err } } ∧
      (∀ a, ¬ inWindow .syn (2 * s.bt.toNat) a → ¬ inWindow .out s.bn.toNat a →
        (let S := bsyn (fieldView s) s.bn.toNat (bchIn s) s.bt.toNat s.bfcr.toNat
         let r := berlekampMassey (fieldView s) S (2 * s.bt.toNat)
         ¬ inWindow .lambda (if isZero S then 1 else r.1.length) a ∧
           ¬ inWindow .pos (if isZero S then 0 else (chienPositions (fieldView s) s.bn.toNat r.1).length) a) →
        t.byteAt a = s.byteAt a) ∧
      (t.errcode ≠ .noError → t.errcode ≠ .uncorrectable → ∀ a, t.byteAt a = s.byteAt a))

/-! ### The polynomial unit -/

/-- PADD and PSUB write the trimmed coefficient-wise sum (R186, R188), and PSUB is PADD in characteristic 2 (R189). -/
def Obligations.PaddPsubRule : Prop :=
  (∀ s : State, Inv s → BinaryField s → OperandA s → OperandB s →
    ∃ t len, exec .padd s = .next t ∧ exec .psub s = .next t ∧ t.errcode = .noError ∧ t.pr0len = toWord len ∧
      Trimmed t .pr0 len ∧ len ≤ max 1 (max s.palen.toNat s.pblen.toNat) ∧
      ∀ k, IsXorSum s (coeff t .pr0 len k) [0, 1] fun x =>
        if x = 0 then coeff s .pa s.palen.toNat k else coeff s .pb s.pblen.toNat k) ∧
  ∀ s : State, exec .psub s = exec .padd s

/-- PMUL writes the trimmed convolution of the operands (R186, R190): for nonzero operands its length is the sum of the
trimmed lengths less one, and a product longer than P_PLEN ends in CAPACITY 8; a zero operand gives [0]. -/
def Obligations.PmulRule : Prop :=
  ∀ s : State, Inv s → BinaryField s → OperandA s → OperandB s →
    let la := degreeLength s .pa s.palen.toNat
    let lb := degreeLength s .pb s.pblen.toNat
    let zero := (∀ i < s.palen.toNat, winNat s .pa i = 0) ∨ ∀ i < s.pblen.toNat, winNat s .pb i = 0
    (¬ zero → s.params.plen < la + lb - 1 → exec .pmul s = .next (complete .capacity 8 s)) ∧
    (zero ∨ la + lb - 1 ≤ s.params.plen →
      ∃ t len, exec .pmul s = .next t ∧ t.errcode = .noError ∧ t.pr0len = toWord len ∧ Trimmed t .pr0 len ∧
        (zero → len = 1) ∧ (¬ zero → len = la + lb - 1) ∧
        ∀ k, IsXorSum s (coeff t .pr0 len k) (List.range (k + 1)) fun i =>
          mulIndex s (coeff s .pa s.palen.toNat i) (coeff s .pb s.pblen.toNat (k - i)))

/-- PDIVMOD writes the quotient and the remainder of A by a nonzero B (R186, R191): A = Q B + R coefficient by
coefficient, and R is 0 or shorter than B. -/
def Obligations.PdivmodRule : Prop :=
  ∀ s : State, Inv s → BinaryField s → OperandA s → OperandB s → (∃ i < s.pblen.toNat, winNat s .pb i ≠ 0) →
    ∃ t lq lr, exec .pdivmod s = .next t ∧ t.errcode = .noError ∧ t.pr0len = toWord lq ∧ t.pr1len = toWord lr ∧
      Trimmed t .pr0 lq ∧ Trimmed t .pr1 lr ∧
      (∀ i < lq, winNat t .pr0 i < s.fsize.toNat) ∧ (∀ i < lr, winNat t .pr1 i < s.fsize.toNat) ∧
      (lr < degreeLength s .pb s.pblen.toNat ∨ (lr = 1 ∧ winNat t .pr1 0 = 0)) ∧
      ∀ k, IsXorSum s (coeff s .pa s.palen.toNat k) (List.range (k + 2)) fun i =>
        if i ≤ k then mulIndex s (coeff t .pr0 lq i) (coeff s .pb s.pblen.toNat (k - i)) else coeff t .pr1 lr k

/-- PEVAL answers the sum of A[i] x^i (R186, R192); PDERIV keeps the odd coefficients, one degree lower (R195). -/
def Obligations.PevalPderivRule : Prop :=
  ∀ s : State, Inv s → BinaryField s → OperandA s →
    (s.opa.toNat < s.fsize.toNat →
      ∃ c, exec .peval s = .next (complete .noError 0 { s with result0 := toWord c }) ∧
        IsXorSum s c (List.range s.palen.toNat) fun i =>
          mulIndex s (winNat s .pa i) (powIndex s s.opa.toNat i)) ∧
    ∃ t len, exec .pderiv s = .next t ∧ t.errcode = .noError ∧ t.pr0len = toWord len ∧ Trimmed t .pr0 len ∧
      len ≤ max 1 (s.palen.toNat - 1) ∧
      ∀ k, coeff t .pr0 len k = if k % 2 = 0 then coeff s .pa s.palen.toNat (k + 1) else 0

/-- PGCD writes g, PXGCD g with s and t such that g = s A + t B (R187, R193, R194). g divides both operands, so it is their
greatest common divisor; it is monic, or [0] when both operands are zero. g, s and t are trimmed (R185), no longer than the
longer operand (R194), and they are the last remainder and coefficients of the algorithm of R187, times the inverse of the
remainder's leading coefficient. -/
def Obligations.PgcdPxgcdRule : Prop :=
  ∀ s : State, BinaryField s → OperandA s → OperandB s →
    ∃ g x y : List Nat, exec .pgcd s = .next (complete .noError 0 (putPr0 s g)) ∧
      exec .pxgcd s = .next (complete .noError 0 (putPr2 (putPr1 (putPr0 s g) x) y)) ∧
      padd (fieldView s) (pmul (fieldView s) x (polyA s)) (pmul (fieldView s) y (polyB s)) = g ∧
      (∃ u, pmul (fieldView s) u g = trim (polyA s)) ∧ (∃ u, pmul (fieldView s) u g = trim (polyB s)) ∧
      (∀ p ∈ [g, x, y], trim p = p ∧ p.length ≤ max (trim (polyA s)).length (trim (polyB s)).length) ∧
      (∃ n r k u v, EuclidRun (fieldView s) (polyA s) (polyB s) n r k u v ∧
        if r n = [0] then g = r n ∧ x = u n ∧ y = v n
        else
          let c := ginv (fieldView s) (at0 (r n) ((r n).length - 1))
          g = pscale (fieldView s) (r n) c ∧ x = pscale (fieldView s) (u n) c ∧ y = pscale (fieldView s) (v n) c) ∧
      ((∀ c ∈ polyA s ++ polyB s, c = 0) → g = [0] ∧ x = [1] ∧ y = [0]) ∧
      ((∃ c ∈ polyA s ++ polyB s, c ≠ 0) → g.getLast? = some 1)

/-- The frame of the polynomial commands that write windows: the result windows and lengths each writes, and every byte
outside the words it stores (R123, R185, R196); nothing is stored when the check phase reports an error. -/
def Obligations.PolynomialFrame : Prop :=
  ∀ s t : State, Memory.wf s.win = true →
    (∀ i ∈ [Instr.padd, .psub, .pmul, .pgcd, .pderiv], exec i s = .next t →
      t = { s with
        errcode := t.errcode, errinfo := t.errinfo, win := t.win, pr0len := t.pr0len
        status := { s.status with busy := false, done := true, err := t.status.err } } ∧
      (∀ a, ¬ inWindow .pr0
          (match i with
            | .padd => padd (fieldView s) (polyA s) (polyB s)
            | .psub => psub (fieldView s) (polyA s) (polyB s)
            | .pmul => pmul (fieldView s) (polyA s) (polyB s)
            | .pgcd => (pxgcd (fieldView s) (polyA s) (polyB s)).1
            | _ => pderiv (polyA s)).length a →
        t.byteAt a = s.byteAt a) ∧
      (t.errcode ≠ .noError → t.pr0len = s.pr0len ∧ ∀ a, t.byteAt a = s.byteAt a)) ∧
    (exec .pdivmod s = .next t →
      t = { s with
        errcode := t.errcode, errinfo := t.errinfo, win := t.win, pr0len := t.pr0len, pr1len := t.pr1len
        status := { s.status with busy := false, done := true, err := t.status.err } } ∧
      (∀ a, ¬ inWindow .pr0 (pdivmod (fieldView s) (polyA s) (polyB s)).1.length a →
        ¬ inWindow .pr1 (pdivmod (fieldView s) (polyA s) (polyB s)).2.length a → t.byteAt a = s.byteAt a) ∧
      (t.errcode ≠ .noError → t.pr0len = s.pr0len ∧ t.pr1len = s.pr1len ∧ ∀ a, t.byteAt a = s.byteAt a)) ∧
    (exec .pxgcd s = .next t →
      t = { s with
        errcode := t.errcode, errinfo := t.errinfo, win := t.win
        pr0len := t.pr0len, pr1len := t.pr1len, pr2len := t.pr2len
        status := { s.status with busy := false, done := true, err := t.status.err } } ∧
      (∀ a, ¬ inWindow .pr0 (pxgcd (fieldView s) (polyA s) (polyB s)).1.length a →
        ¬ inWindow .pr1 (pxgcd (fieldView s) (polyA s) (polyB s)).2.1.length a →
        ¬ inWindow .pr2 (pxgcd (fieldView s) (polyA s) (polyB s)).2.2.length a → t.byteAt a = s.byteAt a) ∧
      (t.errcode ≠ .noError → t.pr0len = s.pr0len ∧ t.pr1len = s.pr1len ∧ t.pr2len = s.pr2len ∧
        ∀ a, t.byteAt a = s.byteAt a))

end Statements
end

