-- ==== Sys2Proof/Laws/Memory.lean ====
section
/-! SUPPORT. The window memory: read after write, other offsets alone, and the canonical form. -/

namespace Sys2Proof.Machine

open Sys2Proof

theorem Memory.read_nil (a : Nat) : Memory.read [] a = none := rfl

theorem Memory.read_cons (b : Nat) (w : Byte) (rest : Memory) (a : Nat) :
    Memory.read ((b, w) :: rest) a = if a = b then some w else Memory.read rest a := by
  unfold Memory.read
  by_cases h : a = b
  · simp [h]
  · have h' : (a == b) = false := by simpa using h
    simp [h, List.lookup_cons, h']

theorem Memory.wf_nil : Memory.wf [] = true := by simp [Memory.wf]

theorem Memory.wf_cons (x : Host.Cell) (rest : Memory) :
    Memory.wf (x :: rest) = true ↔ (∀ y ∈ rest, x.1 < y.1) ∧ Memory.wf rest = true := by
  simp [Memory.wf, List.pairwise_cons]

/-- A byte of a canonical memory reads as written after a write, and every other offset as before. -/
theorem Memory.read_write (mem : Memory) (h : Memory.wf mem = true) (a b : Nat) (v : Byte) :
    Memory.read (Memory.write mem a v) b = if b = a then some v else Memory.read mem b := by
  induction mem with
  | nil => simp [Memory.write, Memory.read_cons, Memory.read_nil]
  | cons x rest ih =>
    obtain ⟨c, w⟩ := x
    obtain ⟨hlt, hrest⟩ := (Memory.wf_cons _ _).1 h
    unfold Memory.write
    by_cases h1 : a < c
    · simp [h1, Memory.read_cons]
    · by_cases h2 : a = c
      · subst h2
        simp only [lt_irrefl, if_false, if_true, Memory.read_cons]
        by_cases hb : b = a <;> simp [hb]
      · simp only [h1, h2, if_false, Memory.read_cons, ih hrest]
        by_cases hb : b = c
        · simp [hb, Ne.symm h2]
        · simp [hb]

theorem Memory.mem_write {mem : Memory} {a : Nat} {v : Byte} {y : Host.Cell} (h : y ∈ Memory.write mem a v) :
    y = (a, v) ∨ y ∈ mem := by
  induction mem with
  | nil => simpa [Memory.write] using h
  | cons x rest ih =>
    obtain ⟨c, w⟩ := x
    unfold Memory.write at h
    split at h
    · simpa using h
    · split at h
      · rcases List.mem_cons.1 h with h | h
        · exact .inl h
        · exact .inr (List.mem_cons_of_mem _ h)
      · rcases List.mem_cons.1 h with h | h
        · exact .inr (h ▸ List.mem_cons_self)
        · rcases ih h with h | h
          · exact .inl h
          · exact .inr (List.mem_cons_of_mem _ h)

/-- A write keeps the canonical form. -/
theorem Memory.wf_write (mem : Memory) (h : Memory.wf mem = true) (a : Nat) (v : Byte) :
    Memory.wf (Memory.write mem a v) = true := by
  induction mem with
  | nil => simp [Memory.write, Memory.wf]
  | cons x rest ih =>
    obtain ⟨c, w⟩ := x
    obtain ⟨hlt, hrest⟩ := (Memory.wf_cons _ _).1 h
    unfold Memory.write
    split
    · rename_i hac
      refine (Memory.wf_cons _ _).2 ⟨fun y hy => ?_, h⟩
      rcases List.mem_cons.1 hy with rfl | hy
      · exact hac
      · exact lt_trans hac (hlt y hy)
    · split
      · rename_i hac
        subst hac
        exact (Memory.wf_cons _ _).2 ⟨hlt, hrest⟩
      · refine (Memory.wf_cons _ _).2 ⟨fun y hy => ?_, ih hrest⟩
        rcases Memory.mem_write hy with rfl | hy
        · show c < a
          omega
        · exact hlt y hy

theorem Memory.wf_writeWord (mem : Memory) (h : Memory.wf mem = true) (a : Nat) (v : Word) :
    Memory.wf (Memory.writeWord mem a v) = true :=
  Memory.wf_write _ (Memory.wf_write _ (Memory.wf_write _ (Memory.wf_write _ h _ _) _ _) _ _) _ _

theorem Memory.wf_writeWords (vs : List Word) (mem : Memory) (h : Memory.wf mem = true) (a : Nat) :
    Memory.wf (Memory.writeWords mem a vs) = true := by
  induction vs generalizing mem a with
  | nil => exact h
  | cons v vs ih => exact ih _ (Memory.wf_writeWord mem h a v) _

/-- A byte of a word written: its lane, or the byte of before outside the word. -/
theorem Memory.read_writeWord (mem : Memory) (h : Memory.wf mem = true) (a b : Nat) (v : Word) :
    Memory.read (Memory.writeWord mem a v) b =
      if a ≤ b ∧ b < a + 4 then some (v.extractLsb' (8 * (b - a)) 8) else Memory.read mem b := by
  have h1 := Memory.wf_write mem h a (v.extractLsb' 0 8)
  have h2 := Memory.wf_write _ h1 (a + 1) (v.extractLsb' 8 8)
  have h3 := Memory.wf_write _ h2 (a + 2) (v.extractLsb' 16 8)
  unfold Memory.writeWord
  rw [Memory.read_write _ h3, Memory.read_write _ h2, Memory.read_write _ h1, Memory.read_write _ h]
  by_cases h0 : a ≤ b ∧ b < a + 4
  · rw [if_pos h0]
    obtain h | h | h | h : b = a ∨ b = a + 1 ∨ b = a + 2 ∨ b = a + 3 := by omega
    all_goals subst h; simp
  · rw [if_neg h0, if_neg (by omega), if_neg (by omega), if_neg (by omega), if_neg (by omega)]

/-- Bytes outside the words written read as before. -/
theorem Memory.read_writeWords_outside (vs : List Word) (mem : Memory) (h : Memory.wf mem = true) (a b : Nat)
    (hb : ¬ (a ≤ b ∧ b < a + 4 * vs.length)) : Memory.read (Memory.writeWords mem a vs) b = Memory.read mem b := by
  induction vs generalizing mem a with
  | nil => rfl
  | cons v vs ih =>
    simp only [List.length_cons] at hb
    unfold Memory.writeWords
    rw [ih _ (Memory.wf_writeWord mem h a v) _ (by omega), Memory.read_writeWord _ h, if_neg (by omega)]

/-- A byte of the i-th word written is that word's lane. -/
theorem Memory.read_writeWords (vs : List Word) (mem : Memory) (h : Memory.wf mem = true) (a i k : Nat)
    (hi : i < vs.length) (hk : k < 4) :
    Memory.read (Memory.writeWords mem a vs) (a + 4 * i + k) = some (vs[i].extractLsb' (8 * k) 8) := by
  induction vs generalizing mem a i with
  | nil => simp at hi
  | cons v vs ih =>
    have hw := Memory.wf_writeWord mem h a v
    unfold Memory.writeWords
    cases i with
    | zero =>
      rw [Memory.read_writeWords_outside _ _ hw _ _ (by omega), Memory.read_writeWord _ h, if_pos (by omega)]
      simp
    | succ i =>
      have e : a + 4 * (i + 1) + k = a + 4 + 4 * i + k := by omega
      rw [e, ih _ hw _ _ (by simpa using hi)]
      simp

/-- A word is its four byte lanes, lane 3 first. -/
theorem word_of_lanes (v : Word) :
    (v.extractLsb' 24 8 ++ v.extractLsb' 16 8 ++ v.extractLsb' 8 8 ++ v.extractLsb' 0 8 : BitVec 32) = v := by
  apply BitVec.eq_of_getLsbD_eq
  intro i hi
  simp only [BitVec.getLsbD_append, BitVec.getLsbD_extractLsb']
  rcases Nat.lt_or_ge i 8 with h | h
  · simp [h]
  · rcases Nat.lt_or_ge i 16 with h' | h'
    · simp [h, show ¬ i < 8 by omega, show i - 8 < 8 by omega]
    · rcases Nat.lt_or_ge i 24 with h'' | h''
      · simp [show ¬ i < 8 by omega, show ¬ i - 8 < 8 by omega, show i - 8 - 8 < 8 by omega,
          show 16 + (i - 8 - 8) = i by omega]
      · simp [show ¬ i < 8 by omega, show ¬ i - 8 < 8 by omega, show ¬ i - 8 - 8 < 8 by omega,
          show 24 + (i - 8 - 8 - 8) = i by omega, show i - 8 - 8 - 8 < 8 by omega]

/-- The window memory after a hardware reset is canonical. -/
theorem reset_memory_wf : Memory.wf State.reset.win = true := Memory.wf_nil

/-! ### Windows -/

theorem setWin_byteAt_outside (s : State) (h : Memory.wf s.win = true) (w : Win) (vs : List Nat) (a : Nat)
    (ha : ¬ (winBase w ≤ a ∧ a < winBase w + 4 * vs.length)) : (setWin s w vs).byteAt a = s.byteAt a := by
  unfold State.byteAt setWin
  simp only
  rw [Memory.read_writeWords_outside _ _ h _ _ (by simpa using ha)]

/-- A word of a list written to a window reads back. -/
theorem setWin_winWord (s : State) (h : Memory.wf s.win = true) (w : Win) (vs : List Nat) (i : Nat)
    (hi : i < vs.length) : winWord (setWin s w vs) w i = toWord vs[i] := by
  have hb : ∀ k < 4, (setWin s w vs).byteAt (winBase w + 4 * i + k) = (toWord vs[i]).extractLsb' (8 * k) 8 := by
    intro k hk
    unfold State.byteAt setWin
    simp only
    rw [Memory.read_writeWords _ _ h _ _ _ (by simpa using hi) hk]
    simp
  unfold winWord State.wordAt
  rw [hb 3 (by omega), hb 2 (by omega), hb 1 (by omega)]
  have := hb 0 (by omega)
  rw [Nat.add_zero] at this
  rw [this]
  exact word_of_lanes _

/-- A word of which no byte is written reads as before. -/
theorem setWin_winWord_outside (s : State) (h : Memory.wf s.win = true) (w w' : Win) (vs : List Nat) (i : Nat)
    (hi : ∀ k < 4, ¬ (winBase w ≤ winBase w' + 4 * i + k ∧ winBase w' + 4 * i + k < winBase w + 4 * vs.length)) :
    winWord (setWin s w vs) w' i = winWord s w' i := by
  unfold winWord State.wordAt
  rw [setWin_byteAt_outside s h w vs _ (hi 3 (by omega)), setWin_byteAt_outside s h w vs _ (hi 2 (by omega)),
    setWin_byteAt_outside s h w vs _ (hi 1 (by omega)),
    setWin_byteAt_outside s h w vs (winBase w' + 4 * i) (hi 0 (by omega))]

theorem setWin_wf (s : State) (h : Memory.wf s.win = true) (w : Win) (vs : List Nat) :
    Memory.wf (setWin s w vs).win = true := Memory.wf_writeWords _ _ h _

theorem setWinWord_wf (s : State) (h : Memory.wf s.win = true) (w : Win) (i : Nat) (v : Word) :
    Memory.wf (setWinWord s w i v).win = true := Memory.wf_writeWord _ h _ _

end Sys2Proof.Machine
end

