-- ==== Sys2Proof/Laws/Search.lean ====
section
/-! SUPPORT. The spec lemmas of the bounded searches and of tabulated lists. -/

namespace Sys2Proof.Machine

theorem findSomeFrom_eq_none {α : Type} {f : Nat → Option α} {fuel i : Nat} :
    findSomeFrom f fuel i = none ↔ ∀ k, i ≤ k → k < i + fuel → f k = none := by
  induction fuel generalizing i with
  | zero => simp [findSomeFrom]; omega
  | succ n ih =>
    cases h : f i with
    | some x =>
      simp only [findSomeFrom, h]
      constructor
      · intro h'; cases h'
      · intro h'; rw [h' i le_rfl (by omega)] at h; cases h
    | none =>
      simp only [findSomeFrom, h, ih]
      constructor
      · intro h' k hk hk'
        rcases Nat.eq_or_lt_of_le hk with rfl | hlt
        · exact h
        · exact h' k hlt (by omega)
      · intro h' k hk hk'; exact h' k (by omega) (by omega)

theorem findSomeFrom_eq_some {α : Type} {f : Nat → Option α} {fuel i : Nat} {x : α} :
    findSomeFrom f fuel i = some x ↔
      ∃ k, i ≤ k ∧ k < i + fuel ∧ f k = some x ∧ ∀ j, i ≤ j → j < k → f j = none := by
  induction fuel generalizing i with
  | zero => simp only [findSomeFrom]; constructor
            · intro h; cases h
            · rintro ⟨k, h1, h2, -⟩; omega
  | succ n ih =>
    cases h : f i with
    | some y =>
      simp only [findSomeFrom, h]
      constructor
      · intro h'; cases h'; exact ⟨i, le_rfl, by omega, h, fun j h1 h2 => by omega⟩
      · rintro ⟨k, h1, h2, h3, h4⟩
        rcases Nat.eq_or_lt_of_le h1 with rfl | hlt
        · rw [h] at h3; exact h3
        · rw [h4 i le_rfl hlt] at h; cases h
    | none =>
      simp only [findSomeFrom, h, ih]
      constructor
      · rintro ⟨k, h1, h2, h3, h4⟩
        refine ⟨k, by omega, by omega, h3, fun j hj hj' => ?_⟩
        rcases Nat.eq_or_lt_of_le hj with rfl | hlt
        · exact h
        · exact h4 j hlt hj'
      · rintro ⟨k, h1, h2, h3, h4⟩
        rcases Nat.eq_or_lt_of_le h1 with rfl | hlt
        · rw [h] at h3; cases h3
        · exact ⟨k, hlt, by omega, h3, fun j hj hj' => h4 j (by omega) hj'⟩

/-- A bounded search finds nothing exactly when no index below the bound has a value. -/
theorem firstSome_eq_none {α : Type} {n : Nat} {f : Nat → Option α} :
    firstSome n f = none ↔ ∀ k < n, f k = none := by
  simp [firstSome, findSomeFrom_eq_none]

/-- A bounded search answers the value at the smallest index that has one. -/
theorem firstSome_eq_some {α : Type} {n : Nat} {f : Nat → Option α} {x : α} :
    firstSome n f = some x ↔ ∃ k < n, f k = some x ∧ ∀ j < k, f j = none := by
  simp [firstSome, findSomeFrom_eq_some]

theorem firstBelow_eq_none {n : Nat} {p : Nat → Bool} : firstBelow n p = none ↔ ∀ k < n, p k = false := by
  simp [firstBelow, firstSome_eq_none]

theorem firstBelow_eq_some {n : Nat} {p : Nat → Bool} {i : Nat} :
    firstBelow n p = some i ↔ i < n ∧ p i = true ∧ ∀ j < i, p j = false := by
  rw [firstBelow, firstSome_eq_some]
  constructor
  · rintro ⟨k, hk, h, h'⟩
    by_cases hp : p k = true
    · simp [hp] at h; subst h
      exact ⟨hk, hp, fun j hj => by simpa using h' j hj⟩
    · simp [hp] at h
  · rintro ⟨hi, hp, h⟩
    exact ⟨i, hi, by simp [hp], fun j hj => by simp [h j hj]⟩

@[simp] theorem length_tabulate {α : Type} (n : Nat) (f : Nat → α) : (tabulate n f).length = n := by simp [tabulate]

theorem getElem_tabulate {α : Type} (n : Nat) (f : Nat → α) (i : Nat) (h : i < (tabulate n f).length) :
    (tabulate n f)[i] = f i := by simp [tabulate]

theorem getD_tabulate {α : Type} (n : Nat) (f : Nat → α) (i : Nat) (x : α) :
    (tabulate n f).getD i x = if i < n then f i else x := by
  by_cases h : i < n <;> simp [tabulate, h]

@[simp] theorem at0_tabulate (n : Nat) (f : Nat → Nat) (i : Nat) :
    at0 (tabulate n f) i = if i < n then f i else 0 := getD_tabulate n f i 0

theorem mem_tabulate {α : Type} {n : Nat} {f : Nat → α} {x : α} : x ∈ tabulate n f ↔ ∃ i < n, f i = x := by
  simp [tabulate]

theorem tabulate_congr {α : Type} {n : Nat} {f g : Nat → α} (h : ∀ i < n, f i = g i) : tabulate n f = tabulate n g :=
  List.map_congr_left fun i hi => h i (List.mem_range.1 hi)

/-- A list is tabulated by its own entries. -/
theorem tabulate_at0 (l : List Nat) : tabulate l.length (at0 l) = l := by
  apply List.ext_getElem
  · simp
  · intro i h1 h2
    simp [getElem_tabulate, at0, h2]

theorem matAt_tabulate (r n : Nat) (f : Nat → Nat → Nat) (i j : Nat) :
    matAt (tabulate r fun i => tabulate n (f i)) i j = if i < r ∧ j < n then f i j else 0 := by
  unfold matAt
  rw [getD_tabulate]
  by_cases hi : i < r
  · simp [hi]
  · simp [hi, at0]

theorem sumBelow_eq_sum (n : Nat) (f : Nat → Nat) : sumBelow n f = ∑ j ∈ Finset.range n, f j := by
  induction n with
  | zero => rfl
  | succ n ih =>
    rw [Finset.sum_range_succ, ← ih]
    simp [sumBelow, List.range_succ]

end Sys2Proof.Machine
end

