-- ==== Sys2Proof/Laws/State.lean ====
section
/-! SUPPORT. One lemma per field for the updates that every command goes through: the field is as before, or the value
the update writes. -/

namespace Sys2Proof.Machine

open Sys2Proof

/-! ### complete -/

@[simp] theorem complete_params (code : ErrCode) (info : Word) (s : State) :
    (complete code info s).params = s.params := rfl
@[simp] theorem complete_rstN (code : ErrCode) (info : Word) (s : State) :
    (complete code info s).rstN = s.rstN := rfl
@[simp] theorem complete_ie (code : ErrCode) (info : Word) (s : State) :
    (complete code info s).ie = s.ie := rfl
@[simp] theorem complete_status (code : ErrCode) (info : Word) (s : State) :
    (complete code info s).status = { s.status with done := true, err := code != .noError, busy := false } := rfl
@[simp] theorem complete_cmd (code : ErrCode) (info : Word) (s : State) :
    (complete code info s).cmd = s.cmd := rfl
@[simp] theorem complete_errcode (code : ErrCode) (info : Word) (s : State) :
    (complete code info s).errcode = code := rfl
@[simp] theorem complete_errinfo (code : ErrCode) (info : Word) (s : State) :
    (complete code info s).errinfo = if code = .noError then 0 else info := rfl
@[simp] theorem complete_dstat (code : ErrCode) (info : Word) (s : State) :
    (complete code info s).dstat = s.dstat := rfl
@[simp] theorem complete_result0 (code : ErrCode) (info : Word) (s : State) :
    (complete code info s).result0 = s.result0 := rfl
@[simp] theorem complete_result1 (code : ErrCode) (info : Word) (s : State) :
    (complete code info s).result1 = s.result1 := rfl
@[simp] theorem complete_fsize (code : ErrCode) (info : Word) (s : State) :
    (complete code info s).fsize = s.fsize := rfl
@[simp] theorem complete_fqB (code : ErrCode) (info : Word) (s : State) :
    (complete code info s).fqB = s.fqB := rfl
@[simp] theorem complete_fmB (code : ErrCode) (info : Word) (s : State) :
    (complete code info s).fmB = s.fmB := rfl
@[simp] theorem complete_cnB (code : ErrCode) (info : Word) (s : State) :
    (complete code info s).cnB = s.cnB := rfl
@[simp] theorem complete_ckB (code : ErrCode) (info : Word) (s : State) :
    (complete code info s).ckB = s.ckB := rfl
@[simp] theorem complete_cvarB (code : ErrCode) (info : Word) (s : State) :
    (complete code info s).cvarB = s.cvarB := rfl
@[simp] theorem complete_csB (code : ErrCode) (info : Word) (s : State) :
    (complete code info s).csB = s.csB := rfl
@[simp] theorem complete_opa (code : ErrCode) (info : Word) (s : State) :
    (complete code info s).opa = s.opa := rfl
@[simp] theorem complete_opb (code : ErrCode) (info : Word) (s : State) :
    (complete code info s).opb = s.opb := rfl
@[simp] theorem complete_ope (code : ErrCode) (info : Word) (s : State) :
    (complete code info s).ope = s.ope := rfl
@[simp] theorem complete_fq (code : ErrCode) (info : Word) (s : State) :
    (complete code info s).fq = s.fq := rfl
@[simp] theorem complete_fm (code : ErrCode) (info : Word) (s : State) :
    (complete code info s).fm = s.fm := rfl
@[simp] theorem complete_poly (code : ErrCode) (info : Word) (s : State) :
    (complete code info s).poly = s.poly := rfl
@[simp] theorem complete_cn (code : ErrCode) (info : Word) (s : State) :
    (complete code info s).cn = s.cn := rfl
@[simp] theorem complete_ck (code : ErrCode) (info : Word) (s : State) :
    (complete code info s).ck = s.ck := rfl
@[simp] theorem complete_cvar (code : ErrCode) (info : Word) (s : State) :
    (complete code info s).cvar = s.cvar := rfl
@[simp] theorem complete_cs (code : ErrCode) (info : Word) (s : State) :
    (complete code info s).cs = s.cs := rfl
@[simp] theorem complete_bn (code : ErrCode) (info : Word) (s : State) :
    (complete code info s).bn = s.bn := rfl
@[simp] theorem complete_bk (code : ErrCode) (info : Word) (s : State) :
    (complete code info s).bk = s.bk := rfl
@[simp] theorem complete_bt (code : ErrCode) (info : Word) (s : State) :
    (complete code info s).bt = s.bt := rfl
@[simp] theorem complete_bfcr (code : ErrCode) (info : Word) (s : State) :
    (complete code info s).bfcr = s.bfcr := rfl
@[simp] theorem complete_vreg (code : ErrCode) (info : Word) (s : State) :
    (complete code info s).vreg = s.vreg := rfl
@[simp] theorem complete_llen (code : ErrCode) (info : Word) (s : State) :
    (complete code info s).llen = s.llen := rfl
@[simp] theorem complete_lreg (code : ErrCode) (info : Word) (s : State) :
    (complete code info s).lreg = s.lreg := rfl
@[simp] theorem complete_neras (code : ErrCode) (info : Word) (s : State) :
    (complete code info s).neras = s.neras := rfl
@[simp] theorem complete_palen (code : ErrCode) (info : Word) (s : State) :
    (complete code info s).palen = s.palen := rfl
@[simp] theorem complete_pblen (code : ErrCode) (info : Word) (s : State) :
    (complete code info s).pblen = s.pblen := rfl
@[simp] theorem complete_pr0len (code : ErrCode) (info : Word) (s : State) :
    (complete code info s).pr0len = s.pr0len := rfl
@[simp] theorem complete_pr1len (code : ErrCode) (info : Word) (s : State) :
    (complete code info s).pr1len = s.pr1len := rfl
@[simp] theorem complete_pr2len (code : ErrCode) (info : Word) (s : State) :
    (complete code info s).pr2len = s.pr2len := rfl
@[simp] theorem complete_mrow (code : ErrCode) (info : Word) (s : State) :
    (complete code info s).mrow = s.mrow := rfl
@[simp] theorem complete_mcol (code : ErrCode) (info : Word) (s : State) :
    (complete code info s).mcol = s.mcol := rfl
@[simp] theorem complete_elem (code : ErrCode) (info : Word) (s : State) :
    (complete code info s).elem = s.elem := rfl
@[simp] theorem complete_v2i (code : ErrCode) (info : Word) (s : State) :
    (complete code info s).v2i = s.v2i := rfl
@[simp] theorem complete_hmat (code : ErrCode) (info : Word) (s : State) :
    (complete code info s).hmat = s.hmat := rfl
@[simp] theorem complete_win (code : ErrCode) (info : Word) (s : State) :
    (complete code info s).win = s.win := rfl
@[simp] theorem complete_delay (code : ErrCode) (info : Word) (s : State) :
    (complete code info s).delay = s.delay := rfl
@[simp] theorem complete_draws (code : ErrCode) (info : Word) (s : State) :
    (complete code info s).draws = s.draws := rfl
@[simp] theorem complete_epoch (code : ErrCode) (info : Word) (s : State) :
    (complete code info s).epoch = s.epoch := rfl
@[simp] theorem complete_host (code : ErrCode) (info : Word) (s : State) :
    (complete code info s).host = s.host := rfl
@[simp] theorem complete_resp (code : ErrCode) (info : Word) (s : State) :
    (complete code info s).resp = s.resp := rfl

/-! ### raiseError -/

@[simp] theorem raiseError_params (e : CmdError) (s : State) :
    (raiseError e s).params = s.params := rfl
@[simp] theorem raiseError_rstN (e : CmdError) (s : State) :
    (raiseError e s).rstN = s.rstN := rfl
@[simp] theorem raiseError_ie (e : CmdError) (s : State) :
    (raiseError e s).ie = s.ie := rfl
@[simp] theorem raiseError_status (e : CmdError) (s : State) :
    (raiseError e s).status = { s.status with done := true, err := e.code != .noError, busy := false } := rfl
@[simp] theorem raiseError_cmd (e : CmdError) (s : State) :
    (raiseError e s).cmd = s.cmd := rfl
@[simp] theorem raiseError_errcode (e : CmdError) (s : State) :
    (raiseError e s).errcode = e.code := rfl
@[simp] theorem raiseError_errinfo (e : CmdError) (s : State) :
    (raiseError e s).errinfo = if e.code = .noError then 0 else e.info := rfl
@[simp] theorem raiseError_dstat (e : CmdError) (s : State) :
    (raiseError e s).dstat = s.dstat := rfl
@[simp] theorem raiseError_result0 (e : CmdError) (s : State) :
    (raiseError e s).result0 = s.result0 := rfl
@[simp] theorem raiseError_result1 (e : CmdError) (s : State) :
    (raiseError e s).result1 = s.result1 := rfl
@[simp] theorem raiseError_fsize (e : CmdError) (s : State) :
    (raiseError e s).fsize = s.fsize := rfl
@[simp] theorem raiseError_fqB (e : CmdError) (s : State) :
    (raiseError e s).fqB = s.fqB := rfl
@[simp] theorem raiseError_fmB (e : CmdError) (s : State) :
    (raiseError e s).fmB = s.fmB := rfl
@[simp] theorem raiseError_cnB (e : CmdError) (s : State) :
    (raiseError e s).cnB = s.cnB := rfl
@[simp] theorem raiseError_ckB (e : CmdError) (s : State) :
    (raiseError e s).ckB = s.ckB := rfl
@[simp] theorem raiseError_cvarB (e : CmdError) (s : State) :
    (raiseError e s).cvarB = s.cvarB := rfl
@[simp] theorem raiseError_csB (e : CmdError) (s : State) :
    (raiseError e s).csB = s.csB := rfl
@[simp] theorem raiseError_opa (e : CmdError) (s : State) :
    (raiseError e s).opa = s.opa := rfl
@[simp] theorem raiseError_opb (e : CmdError) (s : State) :
    (raiseError e s).opb = s.opb := rfl
@[simp] theorem raiseError_ope (e : CmdError) (s : State) :
    (raiseError e s).ope = s.ope := rfl
@[simp] theorem raiseError_fq (e : CmdError) (s : State) :
    (raiseError e s).fq = s.fq := rfl
@[simp] theorem raiseError_fm (e : CmdError) (s : State) :
    (raiseError e s).fm = s.fm := rfl
@[simp] theorem raiseError_poly (e : CmdError) (s : State) :
    (raiseError e s).poly = s.poly := rfl
@[simp] theorem raiseError_cn (e : CmdError) (s : State) :
    (raiseError e s).cn = s.cn := rfl
@[simp] theorem raiseError_ck (e : CmdError) (s : State) :
    (raiseError e s).ck = s.ck := rfl
@[simp] theorem raiseError_cvar (e : CmdError) (s : State) :
    (raiseError e s).cvar = s.cvar := rfl
@[simp] theorem raiseError_cs (e : CmdError) (s : State) :
    (raiseError e s).cs = s.cs := rfl
@[simp] theorem raiseError_bn (e : CmdError) (s : State) :
    (raiseError e s).bn = s.bn := rfl
@[simp] theorem raiseError_bk (e : CmdError) (s : State) :
    (raiseError e s).bk = s.bk := rfl
@[simp] theorem raiseError_bt (e : CmdError) (s : State) :
    (raiseError e s).bt = s.bt := rfl
@[simp] theorem raiseError_bfcr (e : CmdError) (s : State) :
    (raiseError e s).bfcr = s.bfcr := rfl
@[simp] theorem raiseError_vreg (e : CmdError) (s : State) :
    (raiseError e s).vreg = s.vreg := rfl
@[simp] theorem raiseError_llen (e : CmdError) (s : State) :
    (raiseError e s).llen = s.llen := rfl
@[simp] theorem raiseError_lreg (e : CmdError) (s : State) :
    (raiseError e s).lreg = s.lreg := rfl
@[simp] theorem raiseError_neras (e : CmdError) (s : State) :
    (raiseError e s).neras = s.neras := rfl
@[simp] theorem raiseError_palen (e : CmdError) (s : State) :
    (raiseError e s).palen = s.palen := rfl
@[simp] theorem raiseError_pblen (e : CmdError) (s : State) :
    (raiseError e s).pblen = s.pblen := rfl
@[simp] theorem raiseError_pr0len (e : CmdError) (s : State) :
    (raiseError e s).pr0len = s.pr0len := rfl
@[simp] theorem raiseError_pr1len (e : CmdError) (s : State) :
    (raiseError e s).pr1len = s.pr1len := rfl
@[simp] theorem raiseError_pr2len (e : CmdError) (s : State) :
    (raiseError e s).pr2len = s.pr2len := rfl
@[simp] theorem raiseError_mrow (e : CmdError) (s : State) :
    (raiseError e s).mrow = s.mrow := rfl
@[simp] theorem raiseError_mcol (e : CmdError) (s : State) :
    (raiseError e s).mcol = s.mcol := rfl
@[simp] theorem raiseError_elem (e : CmdError) (s : State) :
    (raiseError e s).elem = s.elem := rfl
@[simp] theorem raiseError_v2i (e : CmdError) (s : State) :
    (raiseError e s).v2i = s.v2i := rfl
@[simp] theorem raiseError_hmat (e : CmdError) (s : State) :
    (raiseError e s).hmat = s.hmat := rfl
@[simp] theorem raiseError_win (e : CmdError) (s : State) :
    (raiseError e s).win = s.win := rfl
@[simp] theorem raiseError_delay (e : CmdError) (s : State) :
    (raiseError e s).delay = s.delay := rfl
@[simp] theorem raiseError_draws (e : CmdError) (s : State) :
    (raiseError e s).draws = s.draws := rfl
@[simp] theorem raiseError_epoch (e : CmdError) (s : State) :
    (raiseError e s).epoch = s.epoch := rfl
@[simp] theorem raiseError_host (e : CmdError) (s : State) :
    (raiseError e s).host = s.host := rfl
@[simp] theorem raiseError_resp (e : CmdError) (s : State) :
    (raiseError e s).resp = s.resp := rfl

/-! ### setWin -/

@[simp] theorem setWin_params (s : State) (w : Win) (vs : List Nat) :
    (setWin s w vs).params = s.params := rfl
@[simp] theorem setWin_rstN (s : State) (w : Win) (vs : List Nat) :
    (setWin s w vs).rstN = s.rstN := rfl
@[simp] theorem setWin_ie (s : State) (w : Win) (vs : List Nat) :
    (setWin s w vs).ie = s.ie := rfl
@[simp] theorem setWin_status (s : State) (w : Win) (vs : List Nat) :
    (setWin s w vs).status = s.status := rfl
@[simp] theorem setWin_cmd (s : State) (w : Win) (vs : List Nat) :
    (setWin s w vs).cmd = s.cmd := rfl
@[simp] theorem setWin_errcode (s : State) (w : Win) (vs : List Nat) :
    (setWin s w vs).errcode = s.errcode := rfl
@[simp] theorem setWin_errinfo (s : State) (w : Win) (vs : List Nat) :
    (setWin s w vs).errinfo = s.errinfo := rfl
@[simp] theorem setWin_dstat (s : State) (w : Win) (vs : List Nat) :
    (setWin s w vs).dstat = s.dstat := rfl
@[simp] theorem setWin_result0 (s : State) (w : Win) (vs : List Nat) :
    (setWin s w vs).result0 = s.result0 := rfl
@[simp] theorem setWin_result1 (s : State) (w : Win) (vs : List Nat) :
    (setWin s w vs).result1 = s.result1 := rfl
@[simp] theorem setWin_fsize (s : State) (w : Win) (vs : List Nat) :
    (setWin s w vs).fsize = s.fsize := rfl
@[simp] theorem setWin_fqB (s : State) (w : Win) (vs : List Nat) :
    (setWin s w vs).fqB = s.fqB := rfl
@[simp] theorem setWin_fmB (s : State) (w : Win) (vs : List Nat) :
    (setWin s w vs).fmB = s.fmB := rfl
@[simp] theorem setWin_cnB (s : State) (w : Win) (vs : List Nat) :
    (setWin s w vs).cnB = s.cnB := rfl
@[simp] theorem setWin_ckB (s : State) (w : Win) (vs : List Nat) :
    (setWin s w vs).ckB = s.ckB := rfl
@[simp] theorem setWin_cvarB (s : State) (w : Win) (vs : List Nat) :
    (setWin s w vs).cvarB = s.cvarB := rfl
@[simp] theorem setWin_csB (s : State) (w : Win) (vs : List Nat) :
    (setWin s w vs).csB = s.csB := rfl
@[simp] theorem setWin_opa (s : State) (w : Win) (vs : List Nat) :
    (setWin s w vs).opa = s.opa := rfl
@[simp] theorem setWin_opb (s : State) (w : Win) (vs : List Nat) :
    (setWin s w vs).opb = s.opb := rfl
@[simp] theorem setWin_ope (s : State) (w : Win) (vs : List Nat) :
    (setWin s w vs).ope = s.ope := rfl
@[simp] theorem setWin_fq (s : State) (w : Win) (vs : List Nat) :
    (setWin s w vs).fq = s.fq := rfl
@[simp] theorem setWin_fm (s : State) (w : Win) (vs : List Nat) :
    (setWin s w vs).fm = s.fm := rfl
@[simp] theorem setWin_poly (s : State) (w : Win) (vs : List Nat) :
    (setWin s w vs).poly = s.poly := rfl
@[simp] theorem setWin_cn (s : State) (w : Win) (vs : List Nat) :
    (setWin s w vs).cn = s.cn := rfl
@[simp] theorem setWin_ck (s : State) (w : Win) (vs : List Nat) :
    (setWin s w vs).ck = s.ck := rfl
@[simp] theorem setWin_cvar (s : State) (w : Win) (vs : List Nat) :
    (setWin s w vs).cvar = s.cvar := rfl
@[simp] theorem setWin_cs (s : State) (w : Win) (vs : List Nat) :
    (setWin s w vs).cs = s.cs := rfl
@[simp] theorem setWin_bn (s : State) (w : Win) (vs : List Nat) :
    (setWin s w vs).bn = s.bn := rfl
@[simp] theorem setWin_bk (s : State) (w : Win) (vs : List Nat) :
    (setWin s w vs).bk = s.bk := rfl
@[simp] theorem setWin_bt (s : State) (w : Win) (vs : List Nat) :
    (setWin s w vs).bt = s.bt := rfl
@[simp] theorem setWin_bfcr (s : State) (w : Win) (vs : List Nat) :
    (setWin s w vs).bfcr = s.bfcr := rfl
@[simp] theorem setWin_vreg (s : State) (w : Win) (vs : List Nat) :
    (setWin s w vs).vreg = s.vreg := rfl
@[simp] theorem setWin_llen (s : State) (w : Win) (vs : List Nat) :
    (setWin s w vs).llen = s.llen := rfl
@[simp] theorem setWin_lreg (s : State) (w : Win) (vs : List Nat) :
    (setWin s w vs).lreg = s.lreg := rfl
@[simp] theorem setWin_neras (s : State) (w : Win) (vs : List Nat) :
    (setWin s w vs).neras = s.neras := rfl
@[simp] theorem setWin_palen (s : State) (w : Win) (vs : List Nat) :
    (setWin s w vs).palen = s.palen := rfl
@[simp] theorem setWin_pblen (s : State) (w : Win) (vs : List Nat) :
    (setWin s w vs).pblen = s.pblen := rfl
@[simp] theorem setWin_pr0len (s : State) (w : Win) (vs : List Nat) :
    (setWin s w vs).pr0len = s.pr0len := rfl
@[simp] theorem setWin_pr1len (s : State) (w : Win) (vs : List Nat) :
    (setWin s w vs).pr1len = s.pr1len := rfl
@[simp] theorem setWin_pr2len (s : State) (w : Win) (vs : List Nat) :
    (setWin s w vs).pr2len = s.pr2len := rfl
@[simp] theorem setWin_mrow (s : State) (w : Win) (vs : List Nat) :
    (setWin s w vs).mrow = s.mrow := rfl
@[simp] theorem setWin_mcol (s : State) (w : Win) (vs : List Nat) :
    (setWin s w vs).mcol = s.mcol := rfl
@[simp] theorem setWin_elem (s : State) (w : Win) (vs : List Nat) :
    (setWin s w vs).elem = s.elem := rfl
@[simp] theorem setWin_v2i (s : State) (w : Win) (vs : List Nat) :
    (setWin s w vs).v2i = s.v2i := rfl
@[simp] theorem setWin_hmat (s : State) (w : Win) (vs : List Nat) :
    (setWin s w vs).hmat = s.hmat := rfl
@[simp] theorem setWin_win (s : State) (w : Win) (vs : List Nat) :
    (setWin s w vs).win = Memory.writeWords s.win (winBase w) (vs.map toWord) := rfl
@[simp] theorem setWin_delay (s : State) (w : Win) (vs : List Nat) :
    (setWin s w vs).delay = s.delay := rfl
@[simp] theorem setWin_draws (s : State) (w : Win) (vs : List Nat) :
    (setWin s w vs).draws = s.draws := rfl
@[simp] theorem setWin_epoch (s : State) (w : Win) (vs : List Nat) :
    (setWin s w vs).epoch = s.epoch := rfl
@[simp] theorem setWin_host (s : State) (w : Win) (vs : List Nat) :
    (setWin s w vs).host = s.host := rfl
@[simp] theorem setWin_resp (s : State) (w : Win) (vs : List Nat) :
    (setWin s w vs).resp = s.resp := rfl

/-! ### setWinWord -/

@[simp] theorem setWinWord_params (s : State) (w : Win) (i : Nat) (v : Word) :
    (setWinWord s w i v).params = s.params := rfl
@[simp] theorem setWinWord_rstN (s : State) (w : Win) (i : Nat) (v : Word) :
    (setWinWord s w i v).rstN = s.rstN := rfl
@[simp] theorem setWinWord_ie (s : State) (w : Win) (i : Nat) (v : Word) :
    (setWinWord s w i v).ie = s.ie := rfl
@[simp] theorem setWinWord_status (s : State) (w : Win) (i : Nat) (v : Word) :
    (setWinWord s w i v).status = s.status := rfl
@[simp] theorem setWinWord_cmd (s : State) (w : Win) (i : Nat) (v : Word) :
    (setWinWord s w i v).cmd = s.cmd := rfl
@[simp] theorem setWinWord_errcode (s : State) (w : Win) (i : Nat) (v : Word) :
    (setWinWord s w i v).errcode = s.errcode := rfl
@[simp] theorem setWinWord_errinfo (s : State) (w : Win) (i : Nat) (v : Word) :
    (setWinWord s w i v).errinfo = s.errinfo := rfl
@[simp] theorem setWinWord_dstat (s : State) (w : Win) (i : Nat) (v : Word) :
    (setWinWord s w i v).dstat = s.dstat := rfl
@[simp] theorem setWinWord_result0 (s : State) (w : Win) (i : Nat) (v : Word) :
    (setWinWord s w i v).result0 = s.result0 := rfl
@[simp] theorem setWinWord_result1 (s : State) (w : Win) (i : Nat) (v : Word) :
    (setWinWord s w i v).result1 = s.result1 := rfl
@[simp] theorem setWinWord_fsize (s : State) (w : Win) (i : Nat) (v : Word) :
    (setWinWord s w i v).fsize = s.fsize := rfl
@[simp] theorem setWinWord_fqB (s : State) (w : Win) (i : Nat) (v : Word) :
    (setWinWord s w i v).fqB = s.fqB := rfl
@[simp] theorem setWinWord_fmB (s : State) (w : Win) (i : Nat) (v : Word) :
    (setWinWord s w i v).fmB = s.fmB := rfl
@[simp] theorem setWinWord_cnB (s : State) (w : Win) (i : Nat) (v : Word) :
    (setWinWord s w i v).cnB = s.cnB := rfl
@[simp] theorem setWinWord_ckB (s : State) (w : Win) (i : Nat) (v : Word) :
    (setWinWord s w i v).ckB = s.ckB := rfl
@[simp] theorem setWinWord_cvarB (s : State) (w : Win) (i : Nat) (v : Word) :
    (setWinWord s w i v).cvarB = s.cvarB := rfl
@[simp] theorem setWinWord_csB (s : State) (w : Win) (i : Nat) (v : Word) :
    (setWinWord s w i v).csB = s.csB := rfl
@[simp] theorem setWinWord_opa (s : State) (w : Win) (i : Nat) (v : Word) :
    (setWinWord s w i v).opa = s.opa := rfl
@[simp] theorem setWinWord_opb (s : State) (w : Win) (i : Nat) (v : Word) :
    (setWinWord s w i v).opb = s.opb := rfl
@[simp] theorem setWinWord_ope (s : State) (w : Win) (i : Nat) (v : Word) :
    (setWinWord s w i v).ope = s.ope := rfl
@[simp] theorem setWinWord_fq (s : State) (w : Win) (i : Nat) (v : Word) :
    (setWinWord s w i v).fq = s.fq := rfl
@[simp] theorem setWinWord_fm (s : State) (w : Win) (i : Nat) (v : Word) :
    (setWinWord s w i v).fm = s.fm := rfl
@[simp] theorem setWinWord_poly (s : State) (w : Win) (i : Nat) (v : Word) :
    (setWinWord s w i v).poly = s.poly := rfl
@[simp] theorem setWinWord_cn (s : State) (w : Win) (i : Nat) (v : Word) :
    (setWinWord s w i v).cn = s.cn := rfl
@[simp] theorem setWinWord_ck (s : State) (w : Win) (i : Nat) (v : Word) :
    (setWinWord s w i v).ck = s.ck := rfl
@[simp] theorem setWinWord_cvar (s : State) (w : Win) (i : Nat) (v : Word) :
    (setWinWord s w i v).cvar = s.cvar := rfl
@[simp] theorem setWinWord_cs (s : State) (w : Win) (i : Nat) (v : Word) :
    (setWinWord s w i v).cs = s.cs := rfl
@[simp] theorem setWinWord_bn (s : State) (w : Win) (i : Nat) (v : Word) :
    (setWinWord s w i v).bn = s.bn := rfl
@[simp] theorem setWinWord_bk (s : State) (w : Win) (i : Nat) (v : Word) :
    (setWinWord s w i v).bk = s.bk := rfl
@[simp] theorem setWinWord_bt (s : State) (w : Win) (i : Nat) (v : Word) :
    (setWinWord s w i v).bt = s.bt := rfl
@[simp] theorem setWinWord_bfcr (s : State) (w : Win) (i : Nat) (v : Word) :
    (setWinWord s w i v).bfcr = s.bfcr := rfl
@[simp] theorem setWinWord_vreg (s : State) (w : Win) (i : Nat) (v : Word) :
    (setWinWord s w i v).vreg = s.vreg := rfl
@[simp] theorem setWinWord_llen (s : State) (w : Win) (i : Nat) (v : Word) :
    (setWinWord s w i v).llen = s.llen := rfl
@[simp] theorem setWinWord_lreg (s : State) (w : Win) (i : Nat) (v : Word) :
    (setWinWord s w i v).lreg = s.lreg := rfl
@[simp] theorem setWinWord_neras (s : State) (w : Win) (i : Nat) (v : Word) :
    (setWinWord s w i v).neras = s.neras := rfl
@[simp] theorem setWinWord_palen (s : State) (w : Win) (i : Nat) (v : Word) :
    (setWinWord s w i v).palen = s.palen := rfl
@[simp] theorem setWinWord_pblen (s : State) (w : Win) (i : Nat) (v : Word) :
    (setWinWord s w i v).pblen = s.pblen := rfl
@[simp] theorem setWinWord_pr0len (s : State) (w : Win) (i : Nat) (v : Word) :
    (setWinWord s w i v).pr0len = s.pr0len := rfl
@[simp] theorem setWinWord_pr1len (s : State) (w : Win) (i : Nat) (v : Word) :
    (setWinWord s w i v).pr1len = s.pr1len := rfl
@[simp] theorem setWinWord_pr2len (s : State) (w : Win) (i : Nat) (v : Word) :
    (setWinWord s w i v).pr2len = s.pr2len := rfl
@[simp] theorem setWinWord_mrow (s : State) (w : Win) (i : Nat) (v : Word) :
    (setWinWord s w i v).mrow = s.mrow := rfl
@[simp] theorem setWinWord_mcol (s : State) (w : Win) (i : Nat) (v : Word) :
    (setWinWord s w i v).mcol = s.mcol := rfl
@[simp] theorem setWinWord_elem (s : State) (w : Win) (i : Nat) (v : Word) :
    (setWinWord s w i v).elem = s.elem := rfl
@[simp] theorem setWinWord_v2i (s : State) (w : Win) (i : Nat) (v : Word) :
    (setWinWord s w i v).v2i = s.v2i := rfl
@[simp] theorem setWinWord_hmat (s : State) (w : Win) (i : Nat) (v : Word) :
    (setWinWord s w i v).hmat = s.hmat := rfl
@[simp] theorem setWinWord_win (s : State) (w : Win) (i : Nat) (v : Word) :
    (setWinWord s w i v).win = Memory.writeWord s.win (winBase w + 4 * i) v := rfl
@[simp] theorem setWinWord_delay (s : State) (w : Win) (i : Nat) (v : Word) :
    (setWinWord s w i v).delay = s.delay := rfl
@[simp] theorem setWinWord_draws (s : State) (w : Win) (i : Nat) (v : Word) :
    (setWinWord s w i v).draws = s.draws := rfl
@[simp] theorem setWinWord_epoch (s : State) (w : Win) (i : Nat) (v : Word) :
    (setWinWord s w i v).epoch = s.epoch := rfl
@[simp] theorem setWinWord_host (s : State) (w : Win) (i : Nat) (v : Word) :
    (setWinWord s w i v).host = s.host := rfl
@[simp] theorem setWinWord_resp (s : State) (w : Win) (i : Nat) (v : Word) :
    (setWinWord s w i v).resp = s.resp := rfl

/-! ### putResult0 -/

@[simp] theorem putResult0_params (s : State) (v : Nat) :
    (putResult0 s v).params = s.params := rfl
@[simp] theorem putResult0_rstN (s : State) (v : Nat) :
    (putResult0 s v).rstN = s.rstN := rfl
@[simp] theorem putResult0_ie (s : State) (v : Nat) :
    (putResult0 s v).ie = s.ie := rfl
@[simp] theorem putResult0_status (s : State) (v : Nat) :
    (putResult0 s v).status = s.status := rfl
@[simp] theorem putResult0_cmd (s : State) (v : Nat) :
    (putResult0 s v).cmd = s.cmd := rfl
@[simp] theorem putResult0_errcode (s : State) (v : Nat) :
    (putResult0 s v).errcode = s.errcode := rfl
@[simp] theorem putResult0_errinfo (s : State) (v : Nat) :
    (putResult0 s v).errinfo = s.errinfo := rfl
@[simp] theorem putResult0_dstat (s : State) (v : Nat) :
    (putResult0 s v).dstat = s.dstat := rfl
@[simp] theorem putResult0_result0 (s : State) (v : Nat) :
    (putResult0 s v).result0 = toWord v := rfl
@[simp] theorem putResult0_result1 (s : State) (v : Nat) :
    (putResult0 s v).result1 = s.result1 := rfl
@[simp] theorem putResult0_fsize (s : State) (v : Nat) :
    (putResult0 s v).fsize = s.fsize := rfl
@[simp] theorem putResult0_fqB (s : State) (v : Nat) :
    (putResult0 s v).fqB = s.fqB := rfl
@[simp] theorem putResult0_fmB (s : State) (v : Nat) :
    (putResult0 s v).fmB = s.fmB := rfl
@[simp] theorem putResult0_cnB (s : State) (v : Nat) :
    (putResult0 s v).cnB = s.cnB := rfl
@[simp] theorem putResult0_ckB (s : State) (v : Nat) :
    (putResult0 s v).ckB = s.ckB := rfl
@[simp] theorem putResult0_cvarB (s : State) (v : Nat) :
    (putResult0 s v).cvarB = s.cvarB := rfl
@[simp] theorem putResult0_csB (s : State) (v : Nat) :
    (putResult0 s v).csB = s.csB := rfl
@[simp] theorem putResult0_opa (s : State) (v : Nat) :
    (putResult0 s v).opa = s.opa := rfl
@[simp] theorem putResult0_opb (s : State) (v : Nat) :
    (putResult0 s v).opb = s.opb := rfl
@[simp] theorem putResult0_ope (s : State) (v : Nat) :
    (putResult0 s v).ope = s.ope := rfl
@[simp] theorem putResult0_fq (s : State) (v : Nat) :
    (putResult0 s v).fq = s.fq := rfl
@[simp] theorem putResult0_fm (s : State) (v : Nat) :
    (putResult0 s v).fm = s.fm := rfl
@[simp] theorem putResult0_poly (s : State) (v : Nat) :
    (putResult0 s v).poly = s.poly := rfl
@[simp] theorem putResult0_cn (s : State) (v : Nat) :
    (putResult0 s v).cn = s.cn := rfl
@[simp] theorem putResult0_ck (s : State) (v : Nat) :
    (putResult0 s v).ck = s.ck := rfl
@[simp] theorem putResult0_cvar (s : State) (v : Nat) :
    (putResult0 s v).cvar = s.cvar := rfl
@[simp] theorem putResult0_cs (s : State) (v : Nat) :
    (putResult0 s v).cs = s.cs := rfl
@[simp] theorem putResult0_bn (s : State) (v : Nat) :
    (putResult0 s v).bn = s.bn := rfl
@[simp] theorem putResult0_bk (s : State) (v : Nat) :
    (putResult0 s v).bk = s.bk := rfl
@[simp] theorem putResult0_bt (s : State) (v : Nat) :
    (putResult0 s v).bt = s.bt := rfl
@[simp] theorem putResult0_bfcr (s : State) (v : Nat) :
    (putResult0 s v).bfcr = s.bfcr := rfl
@[simp] theorem putResult0_vreg (s : State) (v : Nat) :
    (putResult0 s v).vreg = s.vreg := rfl
@[simp] theorem putResult0_llen (s : State) (v : Nat) :
    (putResult0 s v).llen = s.llen := rfl
@[simp] theorem putResult0_lreg (s : State) (v : Nat) :
    (putResult0 s v).lreg = s.lreg := rfl
@[simp] theorem putResult0_neras (s : State) (v : Nat) :
    (putResult0 s v).neras = s.neras := rfl
@[simp] theorem putResult0_palen (s : State) (v : Nat) :
    (putResult0 s v).palen = s.palen := rfl
@[simp] theorem putResult0_pblen (s : State) (v : Nat) :
    (putResult0 s v).pblen = s.pblen := rfl
@[simp] theorem putResult0_pr0len (s : State) (v : Nat) :
    (putResult0 s v).pr0len = s.pr0len := rfl
@[simp] theorem putResult0_pr1len (s : State) (v : Nat) :
    (putResult0 s v).pr1len = s.pr1len := rfl
@[simp] theorem putResult0_pr2len (s : State) (v : Nat) :
    (putResult0 s v).pr2len = s.pr2len := rfl
@[simp] theorem putResult0_mrow (s : State) (v : Nat) :
    (putResult0 s v).mrow = s.mrow := rfl
@[simp] theorem putResult0_mcol (s : State) (v : Nat) :
    (putResult0 s v).mcol = s.mcol := rfl
@[simp] theorem putResult0_elem (s : State) (v : Nat) :
    (putResult0 s v).elem = s.elem := rfl
@[simp] theorem putResult0_v2i (s : State) (v : Nat) :
    (putResult0 s v).v2i = s.v2i := rfl
@[simp] theorem putResult0_hmat (s : State) (v : Nat) :
    (putResult0 s v).hmat = s.hmat := rfl
@[simp] theorem putResult0_win (s : State) (v : Nat) :
    (putResult0 s v).win = s.win := rfl
@[simp] theorem putResult0_delay (s : State) (v : Nat) :
    (putResult0 s v).delay = s.delay := rfl
@[simp] theorem putResult0_draws (s : State) (v : Nat) :
    (putResult0 s v).draws = s.draws := rfl
@[simp] theorem putResult0_epoch (s : State) (v : Nat) :
    (putResult0 s v).epoch = s.epoch := rfl
@[simp] theorem putResult0_host (s : State) (v : Nat) :
    (putResult0 s v).host = s.host := rfl
@[simp] theorem putResult0_resp (s : State) (v : Nat) :
    (putResult0 s v).resp = s.resp := rfl

/-! ### clearCode -/

@[simp] theorem clearCode_params (s : State) :
    (clearCode s).params = s.params := rfl
@[simp] theorem clearCode_rstN (s : State) :
    (clearCode s).rstN = s.rstN := rfl
@[simp] theorem clearCode_ie (s : State) :
    (clearCode s).ie = s.ie := rfl
@[simp] theorem clearCode_status (s : State) :
    (clearCode s).status = { s.status with cvalid := false } := rfl
@[simp] theorem clearCode_cmd (s : State) :
    (clearCode s).cmd = s.cmd := rfl
@[simp] theorem clearCode_errcode (s : State) :
    (clearCode s).errcode = s.errcode := rfl
@[simp] theorem clearCode_errinfo (s : State) :
    (clearCode s).errinfo = s.errinfo := rfl
@[simp] theorem clearCode_dstat (s : State) :
    (clearCode s).dstat = s.dstat := rfl
@[simp] theorem clearCode_result0 (s : State) :
    (clearCode s).result0 = s.result0 := rfl
@[simp] theorem clearCode_result1 (s : State) :
    (clearCode s).result1 = s.result1 := rfl
@[simp] theorem clearCode_fsize (s : State) :
    (clearCode s).fsize = s.fsize := rfl
@[simp] theorem clearCode_fqB (s : State) :
    (clearCode s).fqB = s.fqB := rfl
@[simp] theorem clearCode_fmB (s : State) :
    (clearCode s).fmB = s.fmB := rfl
@[simp] theorem clearCode_cnB (s : State) :
    (clearCode s).cnB = 0 := rfl
@[simp] theorem clearCode_ckB (s : State) :
    (clearCode s).ckB = 0 := rfl
@[simp] theorem clearCode_cvarB (s : State) :
    (clearCode s).cvarB = 0 := rfl
@[simp] theorem clearCode_csB (s : State) :
    (clearCode s).csB = 0 := rfl
@[simp] theorem clearCode_opa (s : State) :
    (clearCode s).opa = s.opa := rfl
@[simp] theorem clearCode_opb (s : State) :
    (clearCode s).opb = s.opb := rfl
@[simp] theorem clearCode_ope (s : State) :
    (clearCode s).ope = s.ope := rfl
@[simp] theorem clearCode_fq (s : State) :
    (clearCode s).fq = s.fq := rfl
@[simp] theorem clearCode_fm (s : State) :
    (clearCode s).fm = s.fm := rfl
@[simp] theorem clearCode_poly (s : State) :
    (clearCode s).poly = s.poly := rfl
@[simp] theorem clearCode_cn (s : State) :
    (clearCode s).cn = s.cn := rfl
@[simp] theorem clearCode_ck (s : State) :
    (clearCode s).ck = s.ck := rfl
@[simp] theorem clearCode_cvar (s : State) :
    (clearCode s).cvar = s.cvar := rfl
@[simp] theorem clearCode_cs (s : State) :
    (clearCode s).cs = s.cs := rfl
@[simp] theorem clearCode_bn (s : State) :
    (clearCode s).bn = s.bn := rfl
@[simp] theorem clearCode_bk (s : State) :
    (clearCode s).bk = s.bk := rfl
@[simp] theorem clearCode_bt (s : State) :
    (clearCode s).bt = s.bt := rfl
@[simp] theorem clearCode_bfcr (s : State) :
    (clearCode s).bfcr = s.bfcr := rfl
@[simp] theorem clearCode_vreg (s : State) :
    (clearCode s).vreg = s.vreg := rfl
@[simp] theorem clearCode_llen (s : State) :
    (clearCode s).llen = s.llen := rfl
@[simp] theorem clearCode_lreg (s : State) :
    (clearCode s).lreg = s.lreg := rfl
@[simp] theorem clearCode_neras (s : State) :
    (clearCode s).neras = s.neras := rfl
@[simp] theorem clearCode_palen (s : State) :
    (clearCode s).palen = s.palen := rfl
@[simp] theorem clearCode_pblen (s : State) :
    (clearCode s).pblen = s.pblen := rfl
@[simp] theorem clearCode_pr0len (s : State) :
    (clearCode s).pr0len = s.pr0len := rfl
@[simp] theorem clearCode_pr1len (s : State) :
    (clearCode s).pr1len = s.pr1len := rfl
@[simp] theorem clearCode_pr2len (s : State) :
    (clearCode s).pr2len = s.pr2len := rfl
@[simp] theorem clearCode_mrow (s : State) :
    (clearCode s).mrow = s.mrow := rfl
@[simp] theorem clearCode_mcol (s : State) :
    (clearCode s).mcol = s.mcol := rfl
@[simp] theorem clearCode_elem (s : State) :
    (clearCode s).elem = s.elem := rfl
@[simp] theorem clearCode_v2i (s : State) :
    (clearCode s).v2i = s.v2i := rfl
@[simp] theorem clearCode_hmat (s : State) :
    (clearCode s).hmat = none := rfl
@[simp] theorem clearCode_win (s : State) :
    (clearCode s).win = s.win := rfl
@[simp] theorem clearCode_delay (s : State) :
    (clearCode s).delay = s.delay := rfl
@[simp] theorem clearCode_draws (s : State) :
    (clearCode s).draws = s.draws := rfl
@[simp] theorem clearCode_epoch (s : State) :
    (clearCode s).epoch = s.epoch := rfl
@[simp] theorem clearCode_host (s : State) :
    (clearCode s).host = s.host := rfl
@[simp] theorem clearCode_resp (s : State) :
    (clearCode s).resp = s.resp := rfl

/-! ### clearField -/

@[simp] theorem clearField_params (s : State) :
    (clearField s).params = s.params := rfl
@[simp] theorem clearField_rstN (s : State) :
    (clearField s).rstN = s.rstN := rfl
@[simp] theorem clearField_ie (s : State) :
    (clearField s).ie = s.ie := rfl
@[simp] theorem clearField_status (s : State) :
    (clearField s).status = { s.status with fvalid := false, cvalid := false } := rfl
@[simp] theorem clearField_cmd (s : State) :
    (clearField s).cmd = s.cmd := rfl
@[simp] theorem clearField_errcode (s : State) :
    (clearField s).errcode = s.errcode := rfl
@[simp] theorem clearField_errinfo (s : State) :
    (clearField s).errinfo = s.errinfo := rfl
@[simp] theorem clearField_dstat (s : State) :
    (clearField s).dstat = s.dstat := rfl
@[simp] theorem clearField_result0 (s : State) :
    (clearField s).result0 = s.result0 := rfl
@[simp] theorem clearField_result1 (s : State) :
    (clearField s).result1 = s.result1 := rfl
@[simp] theorem clearField_fsize (s : State) :
    (clearField s).fsize = 0 := rfl
@[simp] theorem clearField_fqB (s : State) :
    (clearField s).fqB = 0 := rfl
@[simp] theorem clearField_fmB (s : State) :
    (clearField s).fmB = 0 := rfl
@[simp] theorem clearField_cnB (s : State) :
    (clearField s).cnB = 0 := rfl
@[simp] theorem clearField_ckB (s : State) :
    (clearField s).ckB = 0 := rfl
@[simp] theorem clearField_cvarB (s : State) :
    (clearField s).cvarB = 0 := rfl
@[simp] theorem clearField_csB (s : State) :
    (clearField s).csB = 0 := rfl
@[simp] theorem clearField_opa (s : State) :
    (clearField s).opa = s.opa := rfl
@[simp] theorem clearField_opb (s : State) :
    (clearField s).opb = s.opb := rfl
@[simp] theorem clearField_ope (s : State) :
    (clearField s).ope = s.ope := rfl
@[simp] theorem clearField_fq (s : State) :
    (clearField s).fq = s.fq := rfl
@[simp] theorem clearField_fm (s : State) :
    (clearField s).fm = s.fm := rfl
@[simp] theorem clearField_poly (s : State) :
    (clearField s).poly = s.poly := rfl
@[simp] theorem clearField_cn (s : State) :
    (clearField s).cn = s.cn := rfl
@[simp] theorem clearField_ck (s : State) :
    (clearField s).ck = s.ck := rfl
@[simp] theorem clearField_cvar (s : State) :
    (clearField s).cvar = s.cvar := rfl
@[simp] theorem clearField_cs (s : State) :
    (clearField s).cs = s.cs := rfl
@[simp] theorem clearField_bn (s : State) :
    (clearField s).bn = s.bn := rfl
@[simp] theorem clearField_bk (s : State) :
    (clearField s).bk = s.bk := rfl
@[simp] theorem clearField_bt (s : State) :
    (clearField s).bt = s.bt := rfl
@[simp] theorem clearField_bfcr (s : State) :
    (clearField s).bfcr = s.bfcr := rfl
@[simp] theorem clearField_vreg (s : State) :
    (clearField s).vreg = s.vreg := rfl
@[simp] theorem clearField_llen (s : State) :
    (clearField s).llen = s.llen := rfl
@[simp] theorem clearField_lreg (s : State) :
    (clearField s).lreg = s.lreg := rfl
@[simp] theorem clearField_neras (s : State) :
    (clearField s).neras = s.neras := rfl
@[simp] theorem clearField_palen (s : State) :
    (clearField s).palen = s.palen := rfl
@[simp] theorem clearField_pblen (s : State) :
    (clearField s).pblen = s.pblen := rfl
@[simp] theorem clearField_pr0len (s : State) :
    (clearField s).pr0len = s.pr0len := rfl
@[simp] theorem clearField_pr1len (s : State) :
    (clearField s).pr1len = s.pr1len := rfl
@[simp] theorem clearField_pr2len (s : State) :
    (clearField s).pr2len = s.pr2len := rfl
@[simp] theorem clearField_mrow (s : State) :
    (clearField s).mrow = s.mrow := rfl
@[simp] theorem clearField_mcol (s : State) :
    (clearField s).mcol = s.mcol := rfl
@[simp] theorem clearField_elem (s : State) :
    (clearField s).elem = none := rfl
@[simp] theorem clearField_v2i (s : State) :
    (clearField s).v2i = none := rfl
@[simp] theorem clearField_hmat (s : State) :
    (clearField s).hmat = none := rfl
@[simp] theorem clearField_win (s : State) :
    (clearField s).win = s.win := rfl
@[simp] theorem clearField_delay (s : State) :
    (clearField s).delay = s.delay := rfl
@[simp] theorem clearField_draws (s : State) :
    (clearField s).draws = s.draws := rfl
@[simp] theorem clearField_epoch (s : State) :
    (clearField s).epoch = s.epoch := rfl
@[simp] theorem clearField_host (s : State) :
    (clearField s).host = s.host := rfl
@[simp] theorem clearField_resp (s : State) :
    (clearField s).resp = s.resp := rfl

end Sys2Proof.Machine
end

