-- ==== Sys2Proof/Laws/Ops.lean ====
section
/-! SUPPORT. The spec lemmas of the shared operations: what a check does, what concludes a command, and what every
meaning answers. -/

namespace Sys2Proof.Machine

open Sys2Proof

/-! ### The check phase -/

@[simp] theorem failIf_false (code : ErrCode) (info : Word) : failIf false code info = .ok () := rfl

@[simp] theorem failIf_true (code : ErrCode) (info : Word) :
    failIf true code info = .error { code := code, info := info } := rfl

theorem failIf_eq_ok {bad : Bool} {code : ErrCode} {info : Word} {u : Unit} :
    failIf bad code info = .ok u ↔ bad = false := by
  cases bad <;> simp

theorem failIf_eq_error {bad : Bool} {code : ErrCode} {info : Word} {e : CmdError} :
    failIf bad code info = .error e ↔ bad = true ∧ e = { code := code, info := info } := by
  cases bad <;> simp [eq_comm]

theorem failAtFirst_eq_ok {n : Nat} {bad : Nat → Bool} {code : ErrCode} {info : Nat → Word} {u : Unit} :
    failAtFirst n bad code info = .ok u ↔ ∀ i < n, bad i = false := by
  unfold failAtFirst
  split
  · rename_i i h
    have := firstBelow_eq_some.1 h
    simp only [reduceCtorEq, false_iff, not_forall]
    exact ⟨i, this.1, by simp [this.2.1]⟩
  · rename_i h
    simpa using firstBelow_eq_none.1 h

/-- A range check that fails names the smallest bad index (R403). -/
theorem failAtFirst_eq_error {n : Nat} {bad : Nat → Bool} {code : ErrCode} {info : Nat → Word} {e : CmdError} :
    failAtFirst n bad code info = .error e ↔
      ∃ i < n, bad i = true ∧ (∀ j < i, bad j = false) ∧ e = { code := code, info := info i } := by
  unfold failAtFirst
  split
  · rename_i i h
    have hi := firstBelow_eq_some.1 h
    constructor
    · intro h'; cases h'; exact ⟨i, hi.1, hi.2.1, hi.2.2, rfl⟩
    · rintro ⟨k, hk, hb, hm, rfl⟩
      have : i = k := by
        rcases lt_trichotomy i k with h1 | h1 | h1
        · rw [hm i h1] at hi; simp at hi
        · exact h1
        · rw [hi.2.2 k h1] at hb; cases hb
      rw [this]
  · rename_i h
    have h := firstBelow_eq_none.1 h
    constructor
    · intro h'; cases h'
    · rintro ⟨k, hk, hb, -⟩; rw [h k hk] at hb; cases hb

/-! ### Sequencing of checks -/

@[simp] theorem ok_bind {α β : Type} (a : α) (f : α → Except CmdError β) : (Except.ok a >>= f) = f a := rfl

@[simp] theorem error_bind {α β : Type} (e : CmdError) (f : α → Except CmdError β) :
    ((Except.error e : Except CmdError α) >>= f) = .error e := rfl

theorem bind_eq_ok {α β : Type} {x : Except CmdError α} {f : α → Except CmdError β} {b : β} :
    (x >>= f) = .ok b ↔ ∃ a, x = .ok a ∧ f a = .ok b := by
  cases x <;> simp

theorem bind_eq_error {α β : Type} {x : Except CmdError α} {f : α → Except CmdError β} {e : CmdError} :
    (x >>= f) = .error e ↔ x = .error e ∨ ∃ a, x = .ok a ∧ f a = .error e := by
  cases x <;> simp

/-! ### The end of a command -/

@[simp] theorem conclude_ok (s t : State) : conclude s (.ok t) = .next (complete .noError 0 t) := rfl

@[simp] theorem conclude_pure (s t : State) : conclude s (pure t) = .next (complete .noError 0 t) := rfl

@[simp] theorem conclude_error (s : State) (e : CmdError) : conclude s (.error e) = .next (raiseError e s) := rfl

/-- Everything the end of a command can be: its outputs with NONE, or its error with the start state. -/
theorem conclude_cases (s : State) (r : Except CmdError State) :
    (∃ t, r = .ok t ∧ conclude s r = .next (complete .noError 0 t)) ∨
      (∃ e, r = .error e ∧ conclude s r = .next (raiseError e s)) := by
  cases r with
  | ok t => exact .inl ⟨t, rfl, rfl⟩
  | error e => exact .inr ⟨e, rfl, rfl⟩

/-- A command that concludes answers a next state that is its completion event (R401). -/
theorem conclude_next (s : State) (r : Except CmdError State) :
    ∃ c info t, conclude s r = .next (complete c info t) := by
  cases r with
  | ok t => exact ⟨_, _, t, rfl⟩
  | error e => exact ⟨_, _, s, rfl⟩

/-- Every meaning answers a next state that is a completion event (R400, R401). -/
theorem exec_completes (i : Instr) (s : State) : ∃ c info t, exec i s = .next (complete c info t) := by
  cases i
  case bdec =>
    show ∃ c info t, execBdec s = _
    unfold execBdec
    split
    · exact ⟨_, _, _, rfl⟩
    · simp only
      split
      · exact ⟨_, _, _, rfl⟩
      · split
        · exact ⟨_, _, _, rfl⟩
        · exact ⟨_, _, _, rfl⟩
  all_goals
    simp only [exec, execNop, execFbuild, execCbuild, execFadd, execFsub, execFmul, execFdiv, execFpow, execFinv,
      execFi2v, execFv2i, execEnc, execSynd, execHdec, execBsyn, execBm, execChien, execPadd, execPsub,
      execPmul, execPdivmod, execPeval, execPgcd, execPxgcd, execPderiv]
    exact conclude_next _ _

end Sys2Proof.Machine
end

