-- ==== Sys2Proof/Laws/Arith.lean ====
section
/-! SUPPORT. Digit arithmetic, primality, the element table and the two views of an element (spec/00_scope.md R8,
spec/40_field.md R152 to R168). -/

namespace Sys2Proof.Machine

/-! ### Digits -/

theorem addQ_lt {q a b : Nat} (h : 0 < q) : addQ q a b < q := Nat.mod_lt _ h

theorem mulQ_lt {q a b : Nat} (h : 0 < q) : mulQ q a b < q := Nat.mod_lt _ h

theorem subQ_lt {q a b : Nat} (h : 0 < q) : subQ q a b < q := by
  unfold subQ
  have h1 := Int.emod_nonneg ((a : Int) - b) (show (q : Int) ≠ 0 by omega)
  have h2 := Int.emod_lt_of_pos ((a : Int) - b) (show (0 : Int) < q by omega)
  omega

theorem negQ_lt {q a : Nat} (h : 0 < q) : negQ q a < q := by
  unfold negQ
  have h1 := Int.emod_nonneg (-(a : Int)) (show (q : Int) ≠ 0 by omega)
  have h2 := Int.emod_lt_of_pos (-(a : Int)) (show (0 : Int) < q by omega)
  omega

/-- `subQ` as an integer congruence. -/
theorem subQ_cast {q a b : Nat} (h : 0 < q) : ((subQ q a b : Nat) : Int) = ((a : Int) - b) % q := by
  unfold subQ
  have h1 := Int.emod_nonneg ((a : Int) - b) (show (q : Int) ≠ 0 by omega)
  omega

/-- `negQ` as an integer congruence. -/
theorem negQ_cast {q a : Nat} (h : 0 < q) : ((negQ q a : Nat) : Int) = (-(a : Int)) % q := by
  unfold negQ
  have h1 := Int.emod_nonneg (-(a : Int)) (show (q : Int) ≠ 0 by omega)
  omega

theorem add_negQ {q a : Nat} (h : 0 < q) : (a + negQ q a) % q = 0 := by
  have : (((a + negQ q a : Nat) : Int)) % q = 0 := by
    push_cast
    rw [negQ_cast h, Int.add_emod_emod]
    simp
  exact_mod_cast this

/-- In GF(q), q prime, a nonzero digit has its inverse found by the search (R8). -/
theorem mulQ_dinv {q a : Nat} (hq : Nat.Prime q) (h0 : a ≠ 0) (ha : a < q) : mulQ q a (dinv q a) = 1 := by
  have hcop : Nat.Coprime a q := by
    rw [Nat.coprime_comm, Nat.Prime.coprime_iff_not_dvd hq]
    exact fun hd => absurd (Nat.le_of_dvd (by omega) hd) (by omega)
  obtain ⟨b, -, hb⟩ := Nat.exists_mul_mod_eq_one_of_coprime hcop hq.one_lt
  have hbq : mulQ q a (b % q) = 1 := by rw [mulQ, Nat.mul_mod_mod]; exact hb
  have hne : b % q ≠ 0 := fun h0 => by rw [h0, mulQ] at hbq; simp at hbq
  unfold dinv
  cases h : firstBelow q fun d => decide (1 ≤ d) && mulQ q a d == 1 with
  | none =>
    have := firstBelow_eq_none.1 h (b % q) (Nat.mod_lt _ hq.pos)
    simp [hbq] at this
    omega
  | some d =>
    have := (firstBelow_eq_some.1 h).2.1
    simp at this
    exact this.2

/-! ### Primality -/

theorem noDivisorFrom_eq_true {q fuel d : Nat} (hf : q < (d + fuel) * (d + fuel)) :
    noDivisorFrom q fuel d = true ↔ ∀ e, d ≤ e → e * e ≤ q → ¬ e ∣ q := by
  induction fuel generalizing d with
  | zero =>
    simp only [noDivisorFrom, true_iff]
    intro e he hee
    have := Nat.mul_le_mul he he
    simp only [Nat.add_zero] at hf
    omega
  | succ n ih =>
    unfold noDivisorFrom
    split
    · rename_i h
      simp only [true_iff]
      intro e he hee
      have := Nat.mul_le_mul he he
      omega
    · split
      · rename_i h1 h2
        simp only [Bool.false_eq_true, false_iff, not_forall]
        exact ⟨d, le_rfl, by omega, by simpa using Nat.dvd_of_mod_eq_zero h2⟩
      · rename_i h1 h2
        have e1 : d + 1 + n = d + (n + 1) := by omega
        rw [ih (by rw [e1]; exact hf)]
        constructor
        · intro h e he hee
          rcases Nat.eq_or_lt_of_le he with rfl | hlt
          · exact fun hd => h2 (Nat.mod_eq_zero_of_dvd hd)
          · exact h e hlt hee
        · intro h e he hee
          exact h e (by omega) hee

/-- Trial division decides primality. -/
theorem isPrime_iff (q : Nat) : isPrime q = true ↔ Nat.Prime q := by
  unfold isPrime
  by_cases h2 : 2 ≤ q
  · have hf : q < (2 + q) * (2 + q) := by nlinarith
    simp only [h2, decide_true, Bool.true_and, noDivisorFrom_eq_true hf]
    rw [Nat.prime_def_le_sqrt]
    constructor
    · intro h
      exact ⟨h2, fun m hm hs => h m hm (Nat.le_sqrt.1 hs)⟩
    · rintro ⟨-, h⟩ e he hee
      exact h e he (Nat.le_sqrt.2 hee)
  · simp only [h2, decide_false, Bool.false_and, Bool.false_eq_true, false_iff]
    exact fun hp => h2 hp.two_le

/-! ### The element table -/

theorem length_rowsFrom (q m : Nat) (red : List Nat) (n : Nat) (row : List Nat) :
    (rowsFrom q m red n row).length = n := by
  induction n generalizing row with
  | zero => rfl
  | succ n ih => simp [rowsFrom, ih]

theorem length_buildTable {q m : Nat} (hq : 0 < q) (red : List Nat) : (buildTable q m red).length = q ^ m := by
  have : 0 < q ^ m := Nat.pow_pos hq
  simp only [buildTable, List.length_cons, length_rowsFrom]
  omega

theorem isDigits_tabulate {q m : Nat} {f : Nat → Nat} (h : ∀ d < m, f d < q) : isDigits q m (tabulate m f) := by
  refine ⟨length_tabulate _ _, fun d hd => ?_⟩
  obtain ⟨i, hi, rfl⟩ := mem_tabulate.1 hd
  exact h i hi

theorem at0_lt {q m : Nat} {v : List Nat} (hq : 0 < q) (h : isDigits q m v) (i : Nat) : at0 v i < q := by
  unfold at0
  rcases Nat.lt_or_ge i v.length with hi | hi
  · rw [List.getD_eq_getElem _ _ hi]; exact h.2 _ (List.getElem_mem hi)
  · rw [List.getD_eq_default _ _ hi]; exact hq

theorem isDigits_nextRow {q m : Nat} (hq : 0 < q) (red row : List Nat) : isDigits q m (nextRow q m red row) :=
  isDigits_tabulate fun _ _ => addQ_lt hq

theorem isDigits_rowsFrom {q m : Nat} (hq : 0 < q) (red : List Nat) (n : Nat) (row : List Nat)
    (h : isDigits q m row) : ∀ r ∈ rowsFrom q m red n row, isDigits q m r := by
  induction n generalizing row with
  | zero => intro r hr; simp [rowsFrom] at hr
  | succ n ih =>
    intro r hr
    rcases List.mem_cons.1 hr with rfl | hr
    · exact h
    · exact ih _ (isDigits_nextRow hq red row) r hr

/-- Every row of the element table is a vector of m digits. -/
theorem isDigits_buildTable {q m : Nat} (hq : 2 ≤ q) (red : List Nat) :
    ∀ r ∈ buildTable q m red, isDigits q m r := by
  intro r hr
  rcases List.mem_cons.1 hr with rfl | hr
  · exact isDigits_tabulate fun _ _ => by omega
  · refine isDigits_rowsFrom (by omega) red _ _ (isDigits_tabulate fun d _ => ?_) r hr
    split <;> omega

/-- The digit vectors of length m as a finite set. -/
def digitVectors (q m : Nat) : Finset (List Nat) :=
  (Finset.univ : Finset (Fin m → Fin q)).image fun f => List.ofFn fun i => (f i).val

theorem mem_digitVectors {q m : Nat} {v : List Nat} : v ∈ digitVectors q m ↔ isDigits q m v := by
  simp only [digitVectors, Finset.mem_image, Finset.mem_univ, true_and]
  constructor
  · rintro ⟨f, rfl⟩
    refine ⟨by simp, fun d hd => ?_⟩
    obtain ⟨i, rfl⟩ := (List.mem_ofFn' _ _).1 hd
    exact (f i).isLt
  · rintro ⟨rfl, h⟩
    exact ⟨fun i => ⟨v[i], h _ (List.getElem_mem i.isLt)⟩, by simp⟩

theorem card_digitVectors_le (q m : Nat) : (digitVectors q m).card ≤ q ^ m := by
  refine le_trans Finset.card_image_le ?_
  simp

/-- With its rows distinct, the element table holds every digit vector (R155: V2I is a bijection). -/
theorem mem_buildTable_of_isDigits {q m : Nat} {red v : List Nat} (hq : 2 ≤ q)
    (hn : (buildTable q m red).Nodup) (hv : isDigits q m v) : v ∈ buildTable q m red := by
  have hsub : (buildTable q m red).toFinset ⊆ digitVectors q m := by
    intro r hr
    exact mem_digitVectors.2 (isDigits_buildTable hq red r (List.mem_toFinset.1 hr))
  have hcard : (digitVectors q m).card ≤ (buildTable q m red).toFinset.card := by
    rw [List.toFinset_card_of_nodup hn, length_buildTable (by omega)]
    exact card_digitVectors_le q m
  have := Finset.eq_of_subset_of_card_le hsub hcard
  exact List.mem_toFinset.1 (this ▸ mem_digitVectors.2 hv)

theorem lookup_zipIdx {l : List (List Nat)} (h : l.Nodup) (i k : Nat) (hi : i < l.length) :
    (l.zipIdx k).lookup l[i] = some (k + i) := by
  induction l generalizing i k with
  | nil => simp at hi
  | cons r rest ih =>
    obtain ⟨hnot, hrest⟩ := List.nodup_cons.1 h
    rw [List.zipIdx_cons]
    cases i with
    | zero => simp
    | succ i =>
      have hi' : i < rest.length := by simpa using hi
      have hne : (rest[i] == r) = false := by
        rw [beq_eq_false_iff_ne]
        rintro rfl
        exact hnot (List.getElem_mem hi')
      simp only [List.getElem_cons_succ, List.lookup_cons, hne]
      rw [ih hrest i (k + 1) hi']
      congr 1
      omega

/-- The distinctness check finds the smallest repeated row, counting rows already seen. -/
theorem firstRepeatFrom_eq_none {seen l : List (List Nat)} {i : Nat} :
    firstRepeatFrom seen i l = none ↔ l.Nodup ∧ ∀ r ∈ l, r ∉ seen := by
  induction l generalizing seen i with
  | nil => simp [firstRepeatFrom]
  | cons r rest ih =>
    unfold firstRepeatFrom
    by_cases hr : r ∈ seen
    · simp [hr]
    · have hc : seen.contains r = false := by simpa using hr
      simp only [hc, Bool.false_eq_true, if_false, ih, List.nodup_cons, List.mem_cons, not_or, forall_eq_or_imp]
      constructor
      · rintro ⟨h1, h2⟩
        exact ⟨⟨fun hm => (h2 r hm).1 rfl, h1⟩, hr, fun x hx => (h2 x hx).2⟩
      · rintro ⟨⟨h1, h2⟩, -, h4⟩
        refine ⟨h2, fun x hx => ⟨?_, h4 x hx⟩⟩
        rintro rfl
        exact h1 hx

/-- FBUILD's check passes exactly when the rows are pairwise distinct (R154). -/
theorem firstRepeat_eq_none {l : List (List Nat)} : firstRepeat l = none ↔ l.Nodup := by
  simp [firstRepeat, firstRepeatFrom_eq_none]

theorem length_reduction (q m : Nat) (c : List Nat) : (reduction q m c).length = m := length_tabulate _ _

theorem reduction_lt {q m : Nat} (hq : 0 < q) (c : List Nat) : ∀ d ∈ reduction q m c, d < q := by
  intro d hd
  obtain ⟨i, -, rfl⟩ := mem_tabulate.1 hd
  exact negQ_lt hq

/-! ### The built field of a state -/

theorem FieldOk.two_le {s : State} (h : FieldOk s) : 2 ≤ s.fqB.toNat := h.prime.two_le

theorem FieldOk.two_le_size {s : State} (h : FieldOk s) : 2 ≤ s.fsize.toNat := by
  rw [h.size]
  calc 2 ≤ s.fqB.toNat := h.two_le
    _ = s.fqB.toNat ^ 1 := (pow_one _).symm
    _ ≤ s.fqB.toNat ^ s.fmB.toNat := Nat.pow_le_pow_right h.prime.pos h.degree.1

/-- The tables of a built field: FSIZE distinct rows, all digit vectors, V2I their inverse map. -/
theorem FieldOk.view {s : State} (h : FieldOk s) :
    (fieldView s).elem.length = s.fsize.toNat ∧ (fieldView s).elem.Nodup ∧
      (∀ r ∈ (fieldView s).elem, isDigits s.fqB.toNat s.fmB.toNat r) ∧
      (∀ v, isDigits s.fqB.toNat s.fmB.toNat v → v ∈ (fieldView s).elem) ∧
      (fieldView s).v2i = inverseMap (fieldView s).elem := by
  obtain ⟨red, -, -, hn, he, hv⟩ := h.tables
  have hel : (fieldView s).elem = buildTable s.fqB.toNat s.fmB.toNat red := by simp [fieldView, he]
  have hvl : (fieldView s).v2i = inverseMap (buildTable s.fqB.toNat s.fmB.toNat red) := by simp [fieldView, hv]
  rw [hel, hvl]
  exact ⟨by rw [length_buildTable h.prime.pos, h.size], hn, isDigits_buildTable h.two_le red,
    fun v hv => mem_buildTable_of_isDigits h.two_le hn hv, rfl⟩

theorem FieldOk.isDigits_vec {s : State} (h : FieldOk s) {a : Nat} (ha : a < s.fsize.toNat) :
    isDigits s.fqB.toNat s.fmB.toNat (vec (fieldView s) a) := by
  obtain ⟨h1, -, h3, -, -⟩ := h.view
  unfold vec
  rw [List.getD_eq_getElem _ _ (by omega)]
  exact h3 _ (List.getElem_mem _)

/-- `idx (vec a) = a` (R161). -/
theorem FieldOk.idx_vec {s : State} (h : FieldOk s) {a : Nat} (ha : a < s.fsize.toNat) :
    idx (fieldView s) (vec (fieldView s) a) = a := by
  obtain ⟨h1, h2, -, -, h5⟩ := h.view
  unfold idx vec
  rw [h5, List.getD_eq_getElem _ _ (by omega), inverseMap, lookup_zipIdx h2]
  simp

/-- Every digit vector is the vector of one index below FSIZE (R161). -/
theorem FieldOk.vec_idx {s : State} (h : FieldOk s) {v : List Nat} (hv : isDigits s.fqB.toNat s.fmB.toNat v) :
    idx (fieldView s) v < s.fsize.toNat ∧ vec (fieldView s) (idx (fieldView s) v) = v := by
  obtain ⟨h1, h2, -, h4, h5⟩ := h.view
  obtain ⟨i, hi, rfl⟩ := List.getElem_of_mem (h4 v hv)
  have hidx : idx (fieldView s) (fieldView s).elem[i] = i := by
    unfold idx
    rw [h5, inverseMap, lookup_zipIdx h2]
    simp
  rw [hidx]
  exact ⟨by omega, by unfold vec; rw [List.getD_eq_getElem _ _ hi]⟩

theorem FieldOk.alpha_lt {s : State} (h : FieldOk s) (e : Int) :
    1 ≤ alpha (fieldView s) e ∧ alpha (fieldView s) e < s.fsize.toNat := by
  have h2 := h.two_le_size
  have hN : (fieldView s).order = s.fsize.toNat - 1 := rfl
  unfold alpha
  rw [hN]
  have h3 := Int.emod_lt_of_pos e (show (0 : Int) < ((s.fsize.toNat - 1 : Nat) : Int) by omega)
  omega

end Sys2Proof.Machine
end

