-- ==== Sys2Proof/Laws/Bus.lean ====
section
/-! SUPPORT. What a host step is: the access it makes at the location its offset names, from the state with the step
taken off the list; what the resets leave, and what a step does while rst_n = 0. -/

namespace Sys2Proof.Machine

open Sys2Proof

theorem inRegion_offset (p : Params) (off : Nat) (h : off < 0x10000) : inRegion p (p.base + off) = true := by
  simp [inRegion, regionBytes, h]

/-- While no completion is due the step is the host's next step. -/
theorem step_host {s : State} {h : BusStep} {rest : List BusStep} (hs : s.host = h :: rest)
    (hd : completionDue s = false) : step s = hostStep (served s rest) h := by
  simp [step, nextEvent, serveHost, hd, hs, served]

/-- A due completion runs the command. -/
theorem step_completion {s : State} (hd : completionDue s = true) : step s = runCommand s := by
  simp [step, nextEvent, hd]

/-- A legal write is performed at the location its offset names. -/
theorem step_write {s : State} {off : Nat} {v : Word} {rest : List BusStep} (hd : completionDue s = false)
    (h : off < 0x10000) (h4 : off % 4 = 0) (hw : WriteNext s off v rest) :
    step s = .next (busWrite (served s rest) (locate s.params off) v) := by
  rw [step_host hw.2 hd]
  simp only [hostStep, memWrite]
  rw [show (served s rest).params = s.params from rfl, inRegion_offset _ _ h,
    show (served s rest).rstN = true from hw.1]
  simp [legalAccess, h4]

/-- A legal read is performed at the location its offset names. -/
theorem step_read {s : State} {off : Nat} {rest : List BusStep} (hd : completionDue s = false)
    (h : off < 0x10000) (h4 : off % 4 = 0) (hw : ReadNext s off rest) :
    step s = .next (busRead (served s rest) (locate s.params off)) := by
  rw [step_host hw.2 hd]
  simp only [hostStep, memRead]
  rw [show (served s rest).params = s.params from rfl, inRegion_offset _ _ h,
    show (served s rest).rstN = true from hw.1]
  simp [legalAccess, h4]

/-- While rst_n = 0 an access of the region, of any width and alignment, is not answered (R450). -/
theorem step_unanswered {s : State} {h : BusStep} {rest : List BusStep} {off width : Nat} {v : Word}
    (hd : completionDue s = false) (hr : s.rstN = false) (ho : off < 0x10000) (hs : s.host = h :: rest)
    (hh : h = .read (s.params.base + off) width ∨ h = .write (s.params.base + off) width v) :
    step s = .next (noAnswer (served s rest)) := by
  have hp : (served s rest).params = s.params := rfl
  have hn : (served s rest).rstN = false := hr
  rw [step_host hs hd]
  rcases hh with rfl | rfl <;> simp [hostStep, memRead, memWrite, hp, hn, inRegion_offset _ _ ho]

/-- What `waitThroughReset` answers: the first edge of rst_n moves before WAIT, and with none WAIT stays in front. -/
theorem waitThroughReset_cases (rest : List BusStep) :
    ((∀ h ∈ rest, isResetEdge h = false) ∧ waitThroughReset rest = .wait :: rest) ∨
      ∃ before edge others, rest = before ++ edge :: others ∧ isResetEdge edge = true ∧
        (∀ h ∈ before, isResetEdge h = false) ∧ waitThroughReset rest = edge :: .wait :: (before ++ others) := by
  cases hf : rest.find? isResetEdge with
  | none =>
    refine .inl ⟨fun h hh => ?_, by simp [waitThroughReset, hf]⟩
    simpa using List.find?_eq_none.1 hf h hh
  | some e =>
    obtain ⟨he, before, others, rfl, hb⟩ := List.find?_eq_some_iff_append.1 hf
    have hb' : ∀ h ∈ before, isResetEdge h = false := fun h hh => by simpa using hb h hh
    have hne : e ∉ before := fun h => by simp [hb' e h] at he
    refine .inr ⟨before, e, others, rfl, he, hb', ?_⟩
    simp [waitThroughReset, hf, List.erase_append_right _ hne]

theorem regTable_lookup_none (off : Nat) (h : off = 0x07C ∨ (0x0A8 ≤ off ∧ off < 0x0C0) ∨ 0x0C0 ≤ off) :
    regTable.lookup off = none := by
  have hr : ∀ x ∈ regTable, x.1 ≤ 0xA4 ∧ x.1 ≠ 0x7C := by decide
  rw [List.lookup_eq_none_iff]
  intro x hx
  have := hr x hx
  simp
  omega

/-- The reserved offsets of the map are located as reserved (R54, R81). -/
theorem locate_reserved (p : Params) (off : Nat) (hp : p.wf = true) (h : off < 0x10000) (hr : reservedOffset p off) :
    locate p off = .reserved := by
  simp [Params.wf] at hp
  unfold locate
  unfold reservedOffset at hr
  rw [regTable_lookup_none off (by omega)]
  simp only
  rw [if_neg (by omega), if_neg (by omega)]
  split
  · split
    · rename_i h1 w hw
      rcases hr with h | h | h | h | h
      · omega
      · omega
      · omega
      · have h12 : 12 ≤ off / 0x1000 - 1 := by omega
        rw [List.getElem?_eq_none (by simpa [winOrder] using h12)] at hw
        cases hw
      · rw [if_neg (by omega)]
    · rfl
  · rfl

/-- So are the words of VREG and POLY beyond P_MMAX (log entry 12). -/
theorem locate_beyondMmax (p : Params) (off : Nat) (h : beyondMmax p off) : locate p off = .reserved := by
  unfold beyondMmax at h
  unfold locate
  rw [regTable_lookup_none off (by omega)]
  simp only
  rw [if_neg (by omega), if_neg (by omega), if_neg (by omega)]

theorem replicate_zero_getD (n d : Nat) : (Vector.replicate n (0 : Word)).getD d 0 = 0 := by
  by_cases h : d < n <;> simp [Vector.getD, h]

theorem statusWord_clear : statusWord Status.clear = 0 := by decide

theorem dstatWord_clear : dstatWord DStat.clear = 0 := by decide

/-- The soft reset leaves the core at its reset values (R452). -/
theorem softReset_atResetValues (s : State) : AtResetValues (softReset s) where
  registers := by intro r; cases r <;> first | rfl | exact statusWord_clear | exact dstatWord_clear
  vectors := ⟨replicate_zero_getD 16, replicate_zero_getD 17⟩
  unbuilt := ⟨⟨rfl, rfl, rfl, rfl, rfl, rfl⟩, rfl, rfl, rfl, rfl, rfl, rfl⟩
  idle := ⟨rfl, rfl⟩

/-- The hardware reset leaves the core at its reset values (R451). -/
theorem hardReset_atResetValues (s : State) : AtResetValues (hardReset s) where
  registers := by intro r; cases r <;> first | rfl | exact statusWord_clear | exact dstatWord_clear
  vectors := (softReset_atResetValues s).vectors
  unbuilt := (softReset_atResetValues s).unbuilt
  idle := ⟨rfl, rfl⟩

/-- A step that answers a next state without a completion due is a host step, or the idle core waiting. -/
theorem step_cases {s t : State} (h : step s = .next t) :
    (completionDue s = true ∧ runCommand s = .next t) ∨
      (completionDue s = false ∧ s.host = [] ∧ t = s) ∨
      ∃ a rest, completionDue s = false ∧ s.host = a :: rest ∧ hostStep (served s rest) a = .next t := by
  cases hd : completionDue s with
  | true => exact .inl ⟨rfl, by rwa [step_completion hd] at h⟩
  | false =>
    cases hs : s.host with
    | nil =>
      refine .inr (.inl ⟨rfl, rfl, ?_⟩)
      simp [step, nextEvent, serveHost, hd, hs] at h
      exact h.symm
    | cons a rest => exact .inr (.inr ⟨a, rest, rfl, rfl, by rwa [step_host hs hd] at h⟩)

end Sys2Proof.Machine
end

