-- ==== Sys2Proof/Laws/Decode.lean ====
section
/-! SUPPORT. Decoding and encoding agree. -/

namespace Sys2Proof

theorem getLsbD_word_append (r : BitVec 24) (o : BitVec 8) (i : Nat) :
    BitVec.getLsbD (r ++ o : BitVec 32) i = if i < 8 then o.getLsbD i else r.getLsbD (i - 8) :=
  (BitVec.getLsbD_append : BitVec.getLsbD (r ++ o : BitVec (24 + 8)) i = _)

@[simp] theorem cmdFields_rsv_append (r : BitVec 24) (o : BitVec 8) : (cmdFields (r ++ o)).rsv = r := by
  apply BitVec.eq_of_getLsbD_eq
  intro i hi
  simp only [cmdFields, BitVec.getLsbD_extractLsb', getLsbD_word_append, hi, decide_true, Bool.true_and]
  rw [if_neg (by omega), Nat.add_sub_cancel_left]

@[simp] theorem cmdFields_opc_append (r : BitVec 24) (o : BitVec 8) : (cmdFields (r ++ o)).opc = o := by
  apply BitVec.eq_of_getLsbD_eq
  intro i hi
  simp only [cmdFields, BitVec.getLsbD_extractLsb', getLsbD_word_append, hi, decide_true, Bool.true_and, Nat.zero_add, if_true]

/-- A word is its fields put together (R120). -/
theorem word_of_cmdFields (w : Word) : ((cmdFields w).rsv ++ (cmdFields w).opc : BitVec 32) = w := by
  apply BitVec.eq_of_getLsbD_eq
  intro i hi
  rw [getLsbD_word_append]
  simp only [cmdFields, BitVec.getLsbD_extractLsb']
  by_cases h : i < 8
  · simp [h]
  · simp [h, show i - 8 < 24 by omega, show 8 + (i - 8) = i by omega]

/-- The two transcriptions of R122 agree. -/
theorem opcodeTable_lookup (i : Instr) : opcodeTable.lookup (opcodeOf i).toNat = some i := by
  cases i <;> decide

theorem opcodeTable_mem (n : Nat) (i : Instr) (h : (n, i) ∈ opcodeTable) : n = (opcodeOf i).toNat := by
  have rows : ∀ row ∈ opcodeTable, row.1 = (opcodeOf row.2).toNat := by decide
  exact rows (n, i) h

end Sys2Proof
end

