-- ==== Sys2Proof/Laws/PerInstr.lean ====
section
/-! SUPPORT. Per command: its opcode stands in the table of spec/30_encoding.md R122 for it, and its word is legal with
RSV = 0 (R120). -/

namespace Sys2Proof.Laws.InOpcodeTable

open Sys2Proof

/-- The command's opcode is its row of R122 and its word has the legal form of R120. -/
def Statement (i : Instr) : Prop :=
  opcodeTable.lookup (opcodeOf i).toNat = some i ∧ (cmdFields (encode i)).rsv = 0 ∧ i.wf = true

theorem nop : Statement .nop := by unfold Statement; decide

theorem fbuild : Statement .fbuild := by unfold Statement; decide

theorem cbuild : Statement .cbuild := by unfold Statement; decide

theorem fadd : Statement .fadd := by unfold Statement; decide

theorem fsub : Statement .fsub := by unfold Statement; decide

theorem fmul : Statement .fmul := by unfold Statement; decide

theorem fdiv : Statement .fdiv := by unfold Statement; decide

theorem fpow : Statement .fpow := by unfold Statement; decide

theorem finv : Statement .finv := by unfold Statement; decide

theorem fi2v : Statement .fi2v := by unfold Statement; decide

theorem fv2i : Statement .fv2i := by unfold Statement; decide

theorem enc : Statement .enc := by unfold Statement; decide

theorem synd : Statement .synd := by unfold Statement; decide

theorem hdec : Statement .hdec := by unfold Statement; decide

theorem bsyn : Statement .bsyn := by unfold Statement; decide

theorem bm : Statement .bm := by unfold Statement; decide

theorem chien : Statement .chien := by unfold Statement; decide

theorem bdec : Statement .bdec := by unfold Statement; decide

theorem padd : Statement .padd := by unfold Statement; decide

theorem psub : Statement .psub := by unfold Statement; decide

theorem pmul : Statement .pmul := by unfold Statement; decide

theorem pdivmod : Statement .pdivmod := by unfold Statement; decide

theorem peval : Statement .peval := by unfold Statement; decide

theorem pgcd : Statement .pgcd := by unfold Statement; decide

theorem pxgcd : Statement .pxgcd := by unfold Statement; decide

theorem pderiv : Statement .pderiv := by unfold Statement; decide

end Sys2Proof.Laws.InOpcodeTable
end

