-- ==== Sys2Proof/Tests/Slice0.lean ====
section
/-! SUPPORT. The model's own tests: ill-formed terms refused, words written from R120 and R122, worked examples of the
spec's rules, and for every statement with hypotheses a state that meets them. Expected values are the spec's. -/

namespace Sys2Proof.Tests

set_option Elab.async false

open Sys2Proof Sys2Proof.Machine

/-! ### Well-formedness refuses -/

theorem test_wf_refuses_rsv : (CmdFields.mk 0x10 1).wf = false := by decide
theorem test_wf_refuses_opcode : (CmdFields.mk 0x03 0).wf = false := by decide
theorem test_wf_accepts_fields : (CmdFields.mk 0x47 0).wf = true := by decide
theorem test_wf_refuses_width : (BusStep.read 0x1000 2).wf Params.reference = false := by decide
theorem test_wf_refuses_unaligned : (BusStep.write 0x1002 4 0).wf Params.reference = false := by decide
theorem test_wf_refuses_outside : (BusStep.read 0x10000 4).wf Params.reference = false := by decide
theorem test_wf_accepts_access : (BusStep.write 0xFFFC 4 0).wf Params.reference = true := by decide
theorem test_wf_refuses_fsmax : ({ Params.reference with fsmax := 3 } : Params).wf = false := by decide
theorem test_wf_refuses_mmax : ({ Params.reference with mmax := 17 } : Params).wf = false := by decide
theorem test_wf_refuses_nbuf : ({ Params.reference with nbuf := 1025 } : Params).wf = false := by decide
theorem test_wf_refuses_tmax : ({ Params.reference with tmax := 512 } : Params).wf = false := by decide
theorem test_wf_refuses_plen : ({ Params.reference with plen := 1025 } : Params).wf = false := by decide
theorem test_wf_refuses_base : ({ Params.reference with base := 0x8000 } : Params).wf = false := by decide
theorem test_wf_accepts_reference : Params.reference.wf = true := by decide

/-! ### Words of R122, bits 31:8 zero and OPC written in binary -/

theorem test_decode_nop : decode 0b00000000#32 = .ok .nop := by decide
theorem test_decode_fbuild : decode 0b00000001#32 = .ok .fbuild := by decide
theorem test_decode_cbuild : decode 0b00000010#32 = .ok .cbuild := by decide
theorem test_decode_fadd : decode 0b00010000#32 = .ok .fadd := by decide
theorem test_decode_fsub : decode 0b00010001#32 = .ok .fsub := by decide
theorem test_decode_fmul : decode 0b00010010#32 = .ok .fmul := by decide
theorem test_decode_fdiv : decode 0b00010011#32 = .ok .fdiv := by decide
theorem test_decode_fpow : decode 0b00010100#32 = .ok .fpow := by decide
theorem test_decode_finv : decode 0b00010101#32 = .ok .finv := by decide
theorem test_decode_fi2v : decode 0b00010110#32 = .ok .fi2v := by decide
theorem test_decode_fv2i : decode 0b00010111#32 = .ok .fv2i := by decide
theorem test_decode_enc : decode 0b00100000#32 = .ok .enc := by decide
theorem test_decode_synd : decode 0b00100001#32 = .ok .synd := by decide
theorem test_decode_hdec : decode 0b00100010#32 = .ok .hdec := by decide
theorem test_decode_bsyn : decode 0b00110000#32 = .ok .bsyn := by decide
theorem test_decode_bm : decode 0b00110001#32 = .ok .bm := by decide
theorem test_decode_chien : decode 0b00110010#32 = .ok .chien := by decide
theorem test_decode_bdec : decode 0b00110011#32 = .ok .bdec := by decide
theorem test_decode_padd : decode 0b01000000#32 = .ok .padd := by decide
theorem test_decode_psub : decode 0b01000001#32 = .ok .psub := by decide
theorem test_decode_pmul : decode 0b01000010#32 = .ok .pmul := by decide
theorem test_decode_pdivmod : decode 0b01000011#32 = .ok .pdivmod := by decide
theorem test_decode_peval : decode 0b01000100#32 = .ok .peval := by decide
theorem test_decode_pgcd : decode 0b01000101#32 = .ok .pgcd := by decide
theorem test_decode_pxgcd : decode 0b01000110#32 = .ok .pxgcd := by decide
theorem test_decode_pderiv : decode 0b01000111#32 = .ok .pderiv := by decide
theorem test_decode_refuses_gap : decode 0x0000002F = .error .unassignedOpcode := by decide
theorem test_decode_refuses_rsv : decode 0x80000010 = .error .reservedBitsSet := by decide
theorem test_decode_table_word : decodeTableWord 32 0x22 = some .hdec := by decide

/-! ### Small states -/

/-- The table of GF(8) as R158 prints it. -/
def gf8Rows : List (List Nat) := [[0, 0, 0], [1, 0, 0], [0, 1, 0], [0, 0, 1], [1, 0, 1], [1, 1, 1], [1, 1, 0], [0, 1, 1]]

/-- The idle core with GF(8) built. -/
def gf8 : State :=
  { State.reset with
    status := { Status.clear with fvalid := true }
    fsize := 8, fqB := 2, fmB := 3, elem := some gf8Rows, v2i := some (inverseMap gf8Rows) }

/-- H of R208. -/
def hammingH : List (List Nat) := [[1, 1, 0, 1, 1, 0, 0], [0, 1, 1, 1, 0, 1, 0], [1, 1, 1, 0, 0, 0, 1]]

/-- The Hamming(7,4) code of R208 built, in a variant with a shortening count. -/
def hamming (var s : Word) : State :=
  { gf8 with
    status := { gf8.status with cvalid := true }
    cnB := 7, ckB := 4, cvarB := var, csB := s, hmat := some hammingH }

/-- The table of GF(16) from POLY [1,1,0,0,1], by the recurrence of R153. -/
def gf16Rows : List (List Nat) := buildTable 2 4 [1, 1, 0, 0]

/-- The idle core with GF(16) built. -/
def gf16 : State :=
  { State.reset with
    status := { Status.clear with fvalid := true }
    fsize := 16, fqB := 2, fmB := 4, elem := some gf16Rows, v2i := some (inverseMap gf16Rows) }

/-- GF(9) from POLY [2,1,1], a field that is not binary. -/
def gf9 : State :=
  { State.reset with
    status := { Status.clear with fvalid := true }
    fsize := 9, fqB := 3, fmB := 2, elem := some (buildTable 3 2 [1, 2]), v2i := some (inverseMap (buildTable 3 2 [1, 2])) }

/-- The state after a command, the same state where the command does not answer one. -/
def after (i : Instr) (s : State) : State :=
  match exec i s with
  | .next t => t
  | _ => s

theorem exec_after (i : Instr) (s : State) : exec i s = .next (after i s) := by
  obtain ⟨c, info, t, h⟩ := exec_completes i s
  simp [after, h]

/-- The core with one configuration for FBUILD. -/
def fieldConfig (q m : Word) (poly : List Nat) : State :=
  { State.reset with fq := q, fm := m, poly := Vector.ofFn fun i => toWord (at0 poly i) }

/-- Two polynomial operands over GF(8). -/
def polys (a b : List Nat) : State :=
  { setWin (setWin gf8 .pa a) .pb b with palen := toWord a.length, pblen := toWord b.length }

/-- A received word of length 15 over GF(16) with t = 2 and b = 1. -/
def bchBits (w : List Nat) : State := { setWin gf16 .inp w with bn := 15, bt := 2, bfcr := 1 }

/-- The word of 15 bits with ones at some positions. -/
def bchWord (ones : List Nat) : State := bchBits (tabulate 15 fun j => if ones.contains j then 1 else 0)

/-! ### Worked examples -/

/-- R158. -/
theorem test_fbuild_gf8 : (after .fbuild (fieldConfig 2 3 [1, 0, 1, 1])).elem = some gf8Rows := by decide +kernel
/-- R154: x^2 = 1 repeats row 1 at index 3. -/
theorem test_fbuild_repeat : (after .fbuild (fieldConfig 2 2 [1, 0, 1])).errinfo = 3 := by decide +kernel
/-- R208. -/
theorem test_cbuild_hamming : (after .cbuild { gf8 with cn := 7, ck := 4 }).hmat = some hammingH := by decide +kernel
/-- R201. -/
theorem test_cbuild_order : (after .cbuild { gf8 with cn := 7, ck := 3 }).errinfo = 2 := by decide +kernel
/-- R170. -/
theorem test_nop : (after .nop { gf8 with result0 := 9 }).result0 = 9 := by decide +kernel
/-- R171 to R176. -/
theorem test_fadd : (after .fadd { gf8 with opa := 4, opb := 5 }).result0 = 2 := by decide +kernel
theorem test_fsub : (after .fsub { gf8 with opa := 4, opb := 5 }).result0 = 2 := by decide +kernel
theorem test_fmul : (after .fmul { gf8 with opa := 6, opb := 7 }).result0 = 5 := by decide +kernel
theorem test_fdiv : (after .fdiv { gf8 with opa := 2, opb := 7 }).result0 = 3 := by decide +kernel
theorem test_fpow : (after .fpow { gf8 with opa := 2, ope := -1 }).result0 = 7 := by decide +kernel
theorem test_finv : (after .finv { gf8 with opa := 4 }).result0 = 5 := by decide +kernel
/-- R177, R178. -/
theorem test_fi2v : (after .fi2v { gf8 with opa := 6 }).vreg = Vector.ofFn fun i => if i.val < 2 then 1 else 0 := by
  decide +kernel
theorem test_fv2i :
    (after .fv2i { gf8 with vreg := Vector.ofFn fun i => if i.val = 1 ∨ i.val = 2 then 1 else 0 }).result0 = 7 := by
  decide +kernel
/-- R211. -/
theorem test_enc : winNats (after .enc (setWin (hamming 0 0) .info [1, 0, 1, 0])) .out 7 = [1, 0, 1, 0, 1, 1, 0] := by
  decide +kernel
/-- R210, s = 2 zeros before INFO: the code word of [0, 0, 1, 0] without its first two symbols. -/
theorem test_enc_shortened : winNats (after .enc (setWin (hamming 1 2) .info [1, 0])) .out 5 = [1, 0, 0, 1, 1] := by
  decide +kernel
/-- R216. -/
theorem test_synd : winNats (after .synd (setWin (hamming 0 0) .inp [1, 0, 0, 0, 1, 1, 0])) .syn 3 = [0, 1, 1] := by
  decide +kernel
/-- R255. -/
theorem test_hdec : winNats (after .hdec (setWin (hamming 0 0) .inp [1, 0, 0, 0, 1, 1, 0])) .out 7 = [1, 0, 1, 0, 1, 1, 0] := by
  decide +kernel
theorem test_hdec_dstat :
    dstatWord (after .hdec (setWin (hamming 0 0) .inp [1, 0, 0, 0, 1, 1, 0])).dstat = 0x008 := by decide +kernel
/-- R283. -/
theorem test_bsyn : winNats (after .bsyn (bchWord [3, 10])) .syn 4 = [13, 10, 8, 4] := by decide +kernel
theorem test_bsyn_root0 : winNats (after .bsyn { bchWord [3, 10] with bfcr := 0 }) .syn 4 = [0, 13, 10, 8] := by
  decide +kernel
/-- R287. -/
theorem test_bm : winNats (after .bm (setWin (bchWord []) .syn [13, 10, 8, 4])) .lambda 3 = [1, 13, 14] := by
  decide +kernel
/-- R299 (d): L = 3 is above t = 2. -/
theorem test_bm_long : winNats (after .bm (setWin (bchWord []) .syn [0, 0, 4, 0])) .lambda 4 = [1, 0, 0, 4] ∧
    (after .bm (setWin (bchWord []) .syn [0, 0, 4, 0])).lreg = 3 := by decide +kernel
/-- R291. -/
theorem test_chien : winNats (after .chien { setWin (bchWord []) .lambda [1, 13, 14] with llen := 3 }) .pos 2 = [3, 10] := by
  decide +kernel
/-- R299 (a), (d). -/
theorem test_bdec : winNats (after .bdec (bchWord [3, 10])) .out 15 = List.replicate 15 0 := by decide +kernel
theorem test_bdec_uncorrectable :
    dstatWord (after .bdec (bchWord [1, 2, 3, 7, 8])).dstat = 0x800 ∧ (after .bdec (bchWord [1, 2, 3, 7, 8])).errinfo = 3 := by
  decide +kernel
/-- R188 to R195. -/
theorem test_padd : winNats (after .padd (polys [3, 0, 1] [2, 1])) .pr0 3 = [7, 1, 1] := by decide +kernel
theorem test_padd_trims : (after .padd (polys [1, 2, 3] [0, 0, 3])).pr0len = 2 := by decide +kernel
theorem test_psub : winNats (after .psub (polys [3, 0, 1] [2, 1])) .pr0 3 = [7, 1, 1] := by decide +kernel
theorem test_pmul : winNats (after .pmul (polys [3, 0, 1] [2, 1])) .pr0 4 = [4, 3, 2, 1] := by decide +kernel
theorem test_pdivmod_quotient : winNats (after .pdivmod (polys [1, 0, 0, 1] [2, 1])) .pr0 3 = [3, 2, 1] := by decide +kernel
theorem test_pdivmod_remainder : winNats (after .pdivmod (polys [1, 0, 0, 1] [2, 1])) .pr1 1 = [3] := by decide +kernel
theorem test_peval : (after .peval { polys [1, 0, 0, 1] [] with opa := 2 }).result0 = 3 := by decide +kernel
theorem test_pgcd : winNats (after .pgcd (polys [4, 7, 1] [6, 4, 1])) .pr0 2 = [2, 1] := by decide +kernel
theorem test_pxgcd : winNats (after .pxgcd (polys [4, 1, 3] [2, 5])) .pr2 2 = [4, 2] := by decide +kernel
theorem test_pderiv : winNats (after .pderiv (polys [3, 4, 5, 6, 7] [])) .pr0 3 = [4, 0, 6] := by decide +kernel

/-! ### States that meet the hypotheses of the statements

Each theorem names the statement it serves; the steps before a completion are drawn, so the states fix `delay`. -/

theorem fieldOk_gf8 (s : State) (hp : s.params = Params.reference) (hv : s.status.fvalid = true) (hs : s.fsize = 8)
    (hq : s.fqB = 2) (hm : s.fmB = 3) (he : s.elem = some gf8Rows) (hi : s.v2i = some (inverseMap gf8Rows)) :
    FieldOk s where
  valid := hv
  prime := by rw [hq]; decide
  degree := by rw [hm, hp]; decide
  size := by rw [hs, hq, hm]; decide
  capacity := by rw [hs, hp]; decide
  tables := by
    rw [he, hi, hq, hm]
    exact ⟨[1, 0, 1], by decide, by decide, by decide +kernel, by decide +kernel, by decide +kernel⟩

theorem fieldOk_gf9 : FieldOk gf9 where
  valid := rfl
  prime := by decide
  degree := by decide
  size := by decide
  capacity := by decide
  tables := ⟨[1, 2], by decide, by decide, by decide +kernel, rfl, rfl⟩

theorem binaryField_gf16 (s : State) (hp : s.params = Params.reference) (hv : s.status.fvalid = true) (hs : s.fsize = 16)
    (hq : s.fqB = 2) (hm : s.fmB = 4) (he : s.elem = some gf16Rows) (hi : s.v2i = some (inverseMap gf16Rows)) :
    BinaryField s :=
  ⟨{ valid := hv
     prime := by rw [hq]; decide
     degree := by rw [hm, hp]; decide
     size := by rw [hs, hq, hm]; decide
     capacity := by rw [hs, hp]; decide
     tables := by
       rw [he, hi, hq, hm]
       exact ⟨[1, 1, 0, 0], by decide, by decide, by decide +kernel, rfl, rfl⟩ }, hq⟩

/-- The Hamming code of R208 in a state that has it. -/
theorem codeOk_hamming (s : State) (h : FieldOk s) (hp : s.params = Params.reference) (hc : s.status.cvalid = true)
    (hf : fieldView s = fieldView gf8) (hq : s.fqB = 2) (hm : s.fmB = 3) (hs : s.fsize = 8)
    (hn : s.cnB = 7) (hk : s.ckB = 4) (hv : s.cvarB.toNat ≤ 2)
    (ht : (s.cvarB ≠ 1 → s.csB = 0) ∧ (s.cvarB = 1 → s.csB.toNat < 4)) (hh : s.hmat = some hammingH) : CodeOk s where
  field := h
  valid := hc
  dims := by rw [hk, hn, hm]; decide
  bound := by rw [hn, hq, hs]; decide
  depth := by rw [hn, hp]; decide
  variant := hv
  shortening := ⟨ht.1, fun h1 => by rw [hn, hk]; exact ht.2 h1⟩
  parity := by rw [hh, hn, hk, hf]; decide +kernel

theorem inv_of_field (s : State) (hp : s.params = Params.reference) (hn : s.rstN = true)
    (hw : Memory.wf s.win = true) (hf : FieldOk s)
    (hc : NoCode s ∨ CodeOk s) (he : ErrorsAgree s) : Inv s where
  params := by rw [hp]; decide
  memory := hw
  field := .inr hf
  code := hc
  errors := he
  held := fun h => absurd (hn.symm.trans h) (by decide)

/-- An idle state after a command without error. -/
theorem errorsAgree_idle (s : State) (hb : s.status.busy = false) (he : s.status.err = false)
    (hi : s.errinfo = 0) : ErrorsAgree s :=
  ⟨fun h => absurd h (by simp [hb]), fun _ => hi, fun h => absurd h (by simp [he])⟩

/-- A GF(8) state with windows and operand registers written. -/
theorem inv_gf8 (s : State) (hp : s.params = Params.reference) (hn : s.rstN = true) (hw : Memory.wf s.win = true)
    (ht : s.status = gf8.status) (hs : s.fsize = 8) (hq : s.fqB = 2) (hm : s.fmB = 3) (he : s.elem = some gf8Rows)
    (hi : s.v2i = some (inverseMap gf8Rows)) (hc : s.cnB = 0 ∧ s.ckB = 0 ∧ s.cvarB = 0 ∧ s.csB = 0 ∧ s.hmat = none)
    (hx : s.errcode = .noError ∧ s.errinfo = 0) : Inv s ∧ FieldOk s :=
  have hf : FieldOk s := fieldOk_gf8 s hp (by rw [ht]; rfl) hs hq hm he hi
  ⟨inv_of_field s hp hn hw hf (.inl ⟨by rw [ht]; rfl, hc⟩)
    (errorsAgree_idle s (by rw [ht]; rfl) (by rw [ht]; rfl) hx.2), hf⟩

/-- A GF(16) state with windows and operand registers written. -/
theorem inv_gf16 (s : State) (hp : s.params = Params.reference) (hn : s.rstN = true) (hw : Memory.wf s.win = true)
    (ht : s.status = gf16.status) (hs : s.fsize = 16) (hq : s.fqB = 2) (hm : s.fmB = 4) (he : s.elem = some gf16Rows)
    (hi : s.v2i = some (inverseMap gf16Rows)) (hc : s.cnB = 0 ∧ s.ckB = 0 ∧ s.cvarB = 0 ∧ s.csB = 0 ∧ s.hmat = none)
    (hx : s.errcode = .noError ∧ s.errinfo = 0) : Inv s ∧ BinaryField s :=
  have hf : BinaryField s := binaryField_gf16 s hp (by rw [ht]; rfl) hs hq hm he hi
  ⟨inv_of_field s hp hn hw hf.1 (.inl ⟨by rw [ht]; rfl, hc⟩)
    (errorsAgree_idle s (by rw [ht]; rfl) (by rw [ht]; rfl) hx.2), hf⟩

/-- A state with the Hamming code in a variant, windows and operand registers written. -/
theorem inv_hamming (s : State) (var sh : Word) (hp : s.params = Params.reference) (hn : s.rstN = true)
    (hw : Memory.wf s.win = true)
    (ht : s.status = (hamming 0 0).status) (hs : s.fsize = 8) (hq : s.fqB = 2) (hm : s.fmB = 3)
    (he : s.elem = some gf8Rows) (hi : s.v2i = some (inverseMap gf8Rows))
    (hc : s.cnB = 7 ∧ s.ckB = 4 ∧ s.cvarB = var ∧ s.csB = sh ∧ s.hmat = some hammingH)
    (hv : var.toNat ≤ 2 ∧ (var ≠ 1 → sh = 0) ∧ (var = 1 → sh.toNat < 4))
    (hx : s.errcode = .noError ∧ s.errinfo = 0) : Inv s ∧ CodeOk s := by
  have hf : FieldOk s := fieldOk_gf8 s hp (by rw [ht]; rfl) hs hq hm he hi
  obtain ⟨c1, c2, c3, c4, c5⟩ := hc
  have hcode : CodeOk s :=
    codeOk_hamming s hf hp (by rw [ht]; rfl)
      (by unfold fieldView; rw [hs, hq, hm, he, hi]; rfl) hq hm hs c1 c2
      (by rw [c3]; exact hv.1) (by rw [c3, c4]; exact hv.2) c5
  exact ⟨inv_of_field s hp hn hw hf (.inr hcode) (errorsAgree_idle s (by rw [ht]; rfl) (by rw [ht]; rfl) hx.2), hcode⟩

/-- A running command with host steps to come, the completion due after three of them. -/
def running (w : Word) (host : List BusStep) : State :=
  { State.reset with status := { Status.clear with busy := true }, cmd := w, delay := 3, host := host }

/-- The idle core with host steps to come. -/
def idle (host : List BusStep) : State := { gf8 with host := host }

theorem witness_DecodeEncodeAgree : (Instr.pderiv).wf = true ∧ decode 0x47 = .ok .pderiv := by decide

theorem witness_StepRunsCommand :
    (∃ s : State, s.status.busy = true ∧ s.delay = 0 ∧ decode s.cmd = .ok .fadd) ∧
      ∃ s : State, s.status.busy = true ∧ s.host = [] ∧ decode s.cmd = .ok .fadd :=
  ⟨⟨{ running 0x10 [.wait] with delay := 0 }, by decide⟩, ⟨running 0x10 [], by decide⟩⟩

theorem witness_IllegalWordCompletes :
    ∃ s : State, s.status.busy = true ∧ s.host = [] ∧ ∀ i, decode s.cmd ≠ .ok i :=
  ⟨running 0x48 [], by decide, by decide, by intro i; cases i <;> decide⟩

theorem witness_CmdRegister :
    (∀ v ∈ [0x00000001#32, 0x00000002#32, 0x00000010#32, 0x00000148#32],
      completionDue (idle [.write 0x00C 4 v]) = false ∧ WriteNext (idle [.write 0x00C 4 v]) 0x00C v [] ∧
        (idle [.write 0x00C 4 v]).status.busy = false) ∧
    (completionDue (running 0x10 [.write 0x00C 4 0]) = false ∧ WriteNext (running 0x10 [.write 0x00C 4 0]) 0x00C 0 [] ∧
      (running 0x10 [.write 0x00C 4 0]).status.busy = true) ∧
    (completionDue (running 0x10 [.read 0x00C 4]) = false ∧ ReadNext (running 0x10 [.read 0x00C 4]) 0x00C []) :=
  ⟨fun _ _ => ⟨rfl, ⟨rfl, rfl⟩, rfl⟩, ⟨rfl, ⟨rfl, rfl⟩, rfl⟩, rfl, rfl, rfl⟩

theorem witness_BusyWrites :
    ∀ off ∈ [0x000, 0x004, 0x008, 0x00C, 0xFFFC], (running 0x10 [.write off 4 1]).status.busy = true ∧
      completionDue (running 0x10 [.write off 4 1]) = false ∧ WriteNext (running 0x10 [.write off 4 1]) off 1 [] ∧
      off < 0x10000 ∧ off % 4 = 0 ∧ (1#32).getLsbD 1 = false := by
  intro off h
  refine ⟨rfl, rfl, by simp [WriteNext, running, State.reset, Params.reference], ?_⟩
  revert off
  decide

/-- One offset of each class of R53, at the ends of the classes that are ranges. -/
theorem witness_BusyReads :
    ∀ off ∈ [0x000, 0x00C, 0x010, 0x014, 0x018, 0x03C, 0x040, 0x04C, 0x050, 0x054, 0x07C, 0x0A4, 0x0A8, 0x0C0, 0x0FC, 0x100,
        0x140, 0x144, 0x1000, 0x6FFC, 0x7000, 0x9FFC, 0xA000, 0xCFFC, 0xD000, 0xFFFC],
      (running 0x10 [.read off 4]).status.busy = true ∧ completionDue (running 0x10 [.read off 4]) = false ∧
        ReadNext (running 0x10 [.read off 4]) off [] ∧ (running 0x10 [.read off 4]).params.wf = true ∧
        off < 0x10000 ∧ off % 4 = 0 := by
  intro off h
  refine ⟨rfl, rfl, by simp [ReadNext, running, State.reset, Params.reference],
    (by decide : Params.reference.wf = true), ?_⟩
  revert off
  decide

theorem witness_StatusAndControl :
    (∀ s ∈ [idle [.wait], running 0x10 [.wait]], completionDue s = false ∧ s.rstN = true ∧ s.host = .wait :: []) ∧
    (∀ off ∈ [0x004, 0x008], completionDue (idle [.read off 4]) = false ∧ ReadNext (idle [.read off 4]) off []) ∧
      ∀ off ∈ [0x004, 0x008], completionDue (running 0x10 [.write off 4 0x25]) = false ∧
        WriteNext (running 0x10 [.write off 4 0x25]) off 0x25 [] ∧ (0x25#32).getLsbD 1 = false :=
  ⟨by decide, fun off _ => ⟨rfl, by simp [ReadNext, idle, gf8, State.reset, Params.reference]⟩,
    fun off _ => ⟨rfl, by simp [WriteNext, running, State.reset, Params.reference], by decide⟩⟩

theorem witness_SoftReset :
    completionDue (running 0x10 [.write 0x004 4 2]) = false ∧ WriteNext (running 0x10 [.write 0x004 4 2]) 0x004 2 [] ∧
      (2#32).getLsbD 1 = true := ⟨rfl, ⟨rfl, rfl⟩, by decide⟩

/-- The core held in reset, with steps to come. -/
def heldInReset (host : List BusStep) : State := { State.reset with rstN := false, host := host }

/-- rst_n falls on a running command; while it is 0 a read, a write of one byte, WAIT with and without an edge after other
steps, and both edges. -/
theorem witness_HardwareReset :
    (completionDue (running 0x10 [.resetLow]) = false ∧ (running 0x10 [.resetLow]).rstN = true ∧
      (running 0x10 [.resetLow]).host = .resetLow :: []) ∧
    (∀ h ∈ [BusStep.read 0xFFFC 4, .write 0x004 1 2, .wait, .resetLow, .resetHigh],
      (heldInReset [h]).status.busy = false ∧ (heldInReset [h]).rstN = false ∧ (heldInReset [h]).host = h :: []) ∧
    (heldInReset [.wait, .read 0 4, .resetHigh, .wait]).host = .wait :: ([.read 0 4] ++ .resetHigh :: [.wait]) := by
  decide

theorem witness_ReadsHaveNoSideEffects :
    ∃ t, completionDue (idle [.read 0x008 4]) = false ∧ (idle [.read 0x008 4]).host = .read 0x008 4 :: [] ∧
      step (idle [.read 0x008 4]) = .next t := ⟨_, rfl, rfl, rfl⟩

theorem witness_BusErrors :
    (∀ a ∈ [(0x1000, 2), (0x1001, 4), (0xFFFF, 1), (0xFFFC, 4)], completionDue (idle [.read a.1 a.2]) = false ∧
      a.1 < 0x10000 ∧ (idle [.read a.1 a.2]).rstN = true ∧
      (idle [.read a.1 a.2]).host = .read ((idle []).params.base + a.1) a.2 :: []) ∧
    ∀ a ∈ [(0x1000, 2), (0x1001, 4), (0xFFFF, 1), (0xFFFC, 4)], completionDue (idle [.write a.1 a.2 7]) = false ∧
      a.1 < 0x10000 ∧ (idle [.write a.1 a.2 7]).host = .write ((idle []).params.base + a.1) a.2 7 :: [] := by
  decide

theorem witness_ReservedOffsets :
    ∀ off ∈ [0x07C, 0x0A8, 0x0BC, 0x144, 0xFFC, 0xD000, 0xFFFC],
      completionDue (idle [.read off 4]) = false ∧ completionDue (running 0x10 [.write off 4 9]) = false ∧
        Params.reference.wf = true ∧ off < 0x10000 ∧ off % 4 = 0 ∧ reservedOffset Params.reference off ∧
        ReadNext (idle [.read off 4]) off [] ∧ WriteNext (idle [.write off 4 9]) off 9 [] := by
  intro off h
  refine ⟨rfl, rfl, by decide, ?_, ?_, ?_, by simp [ReadNext, idle, gf8, State.reset, Params.reference],
    by simp [WriteNext, idle, gf8, State.reset, Params.reference]⟩
  · revert off; decide
  · revert off; decide
  · simp only [List.mem_cons, List.not_mem_nil, or_false] at h
    rcases h with rfl | rfl | rfl | rfl | rfl | rfl | rfl <;> unfold reservedOffset <;> omega

theorem witness_ReservedOffsets_shallow :
    ({ Params.reference with nbuf := 512, plen := 512 } : Params).wf = true ∧
      reservedOffset { Params.reference with nbuf := 512, plen := 512 } 0x1800 :=
  ⟨by decide, by unfold reservedOffset; decide⟩

/-- The first and the last offset of each range, P_MMAX being 16. -/
theorem witness_RegisterReadback :
    (∀ off ∈ [0x000, 0x00C, 0x010, 0x018, 0x070, 0x0A4, 0x0C0 + 4 * 0, 0x0C0 + 4 * 15, 0x100 + 4 * 0, 0x100 + 4 * 16],
      (idle [.read off 4]).status.busy = false ∧ (idle [.read off 4]).params.wf = true ∧
        ReadNext (idle [.read off 4]) off []) ∧
    (∀ off ∈ [0x000, 0x040, 0x078, 0x0A4, 0x0C0 + 4 * 0, 0x0C0 + 4 * 15, 0x100 + 4 * 0, 0x100 + 4 * 16],
      WriteNext (idle [.write off 4 9]) off 9 []) ∧
    (∀ off ∈ [0x000, 0x00C, 0x070, 0x0A4], off ∈ (heldWords gf8).map (·.1)) ∧
    (∀ off ∈ [0x040, 0x0A4], off ∈ (writtenStates gf8 9).map (·.1)) ∧ 16 ≤ gf8.params.mmax := by
  refine ⟨fun off _ => ⟨rfl, (by decide : Params.reference.wf = true), ?_⟩, fun off _ => ?_, by decide, by decide, by decide⟩
  · simp [ReadNext, idle, gf8, State.reset, Params.reference]
  · simp [WriteNext, idle, gf8, State.reset, Params.reference]

/-- With a P_MMAX of 3: the first and the last word beyond it, of VREG and of POLY. -/
theorem witness_ReservedOffsets_beyondMmax :
    ({ Params.reference with mmax := 3 } : Params).wf = true ∧
      ∀ off ∈ [0x0CC, 0x0FC, 0x110, 0x140], off % 4 = 0 ∧ beyondMmax { Params.reference with mmax := 3 } off :=
  ⟨by decide, by unfold beyondMmax; decide⟩

theorem witness_RegisterReadback_errors : ∃ s : State, s.errcode = .capacity ∧ (ErrCode.capacity, 15) ∈ errorNumbers :=
  ⟨{ gf8 with errcode := .capacity }, rfl, by decide⟩

theorem witness_WindowWrites :
    (idle [.write 0x9FFC 4 9]).status.busy = false ∧ Params.reference.wf = true ∧
      Memory.wf (idle [.write 0x9FFC 4 9]).win = true ∧ 1023 < Params.reference.nbuf ∧
      WriteNext (idle [.write 0x9FFC 4 9]) (winBase .pb + 4 * 1023) 9 [] ∧
      Win.pb ∉ [Win.out, Win.pos, Win.pr0, Win.pr1, Win.pr2] ∧
      WriteNext (idle [.write 0xC000 4 9]) (winBase .pr2 + 4 * 0) 9 [] ∧
      ReadNext (idle [.read 0xCFFC 4]) (winBase .pr2 + 4 * 1023) [] :=
  ⟨rfl, by decide, by decide, by decide, ⟨rfl, rfl⟩, by decide, ⟨rfl, rfl⟩, rfl, rfl⟩

theorem witness_MatrixPorts :
    ∀ off ∈ [0x074, 0x078], ∀ row ∈ [0#32, 2#32, 3#32, 4#32], ∀ col ∈ [0#32, 3#32, 4#32, 6#32, 7#32],
      CodeOk { hamming 0 0 with host := [.read off 4], mrow := row, mcol := col } ∧
        ReadNext { hamming 0 0 with host := [.read off 4], mrow := row, mcol := col } off [] :=
  fun off _ row _ col _ =>
    ⟨(inv_hamming { hamming 0 0 with host := [.read off 4], mrow := row, mcol := col } 0 0 rfl rfl rfl rfl rfl rfl rfl rfl rfl
      ⟨rfl, rfl, rfl, rfl, rfl⟩ (by decide) ⟨rfl, rfl⟩).2,
      by simp [ReadNext, hamming, gf8, State.reset, Params.reference]⟩

theorem witness_MatrixPorts_unbuilt :
    ∀ off ∈ [0x074, 0x078], (idle [.read off 4]).status.busy = false ∧ (idle [.read off 4]).status.cvalid = false ∧
      ReadNext (idle [.read off 4]) off [] :=
  fun off _ => ⟨rfl, rfl, by simp [ReadNext, idle, gf8, State.reset, Params.reference]⟩

theorem witness_BusyFallsInterruptRises :
    (∃ t, step (running 0x00 []) = .next t ∧ (running 0x00 []).status.busy = true ∧ t.status.busy = false) ∧
      ∃ t, step { running 0x00 [] with ie := true } = .next t ∧ irq { running 0x00 [] with ie := true } = false ∧
        irq t = true := ⟨⟨_, rfl, rfl, rfl⟩, ⟨_, rfl, rfl, rfl⟩⟩

theorem witness_InitializationBarrier :
    State.reset.status.fvalid = false ∧ gf8.status.fvalid = true ∧ gf8.status.cvalid = false ∧
      ∃ t, exec .cbuild gf8 = .next t := ⟨rfl, rfl, rfl, _, rfl⟩

theorem witness_ErrorsWriteNoOutput :
    ∃ t, exec .fadd State.reset = .next t ∧ t.errcode ≠ .noError ∧
      ¬ (Instr.fadd = .bdec ∧ t.errcode = .uncorrectable) := ⟨_, rfl, by decide, by decide⟩

theorem inv_gf8_operands (a b e : Word) : Inv { gf8 with opa := a, opb := b, ope := e } ∧
    FieldOk { gf8 with opa := a, opb := b, ope := e } :=
  inv_gf8 _ rfl rfl rfl rfl rfl rfl rfl rfl rfl ⟨rfl, rfl, rfl, rfl, rfl⟩ ⟨rfl, rfl⟩

theorem witness_ErrorsOfEachCommand : ∃ s t : State, Inv s ∧ exec .fmul s = .next t := ⟨_, _, (inv_gf8_operands 0 0 0).1, rfl⟩

theorem witness_InvPreserved :
    ∃ t, Inv { gf8 with opa := 7, opb := 0, ope := 0 } ∧ step { gf8 with opa := 7, opb := 0, ope := 0 } = .next t :=
  ⟨_, (inv_gf8_operands 7 0 0).1, rfl⟩

/-- A state with rst_n = 0 that meets the invariant. -/
theorem witness_InvPreserved_held :
    ∃ t, Inv (heldInReset [.resetHigh]) ∧ step (heldInReset [.resetHigh]) = .next t ∧ t.rstN = true := by
  have h0 : AtResetValues (heldInReset [.resetHigh]) :=
    { hardReset_atResetValues State.reset with
      registers := by intro r; cases r <;> rfl }
  exact ⟨_,
    { params := by decide
      memory := by decide
      field := .inl h0.unbuilt.1
      code := .inl h0.unbuilt.2
      errors := errorsAgree_idle _ rfl rfl rfl
      held := fun _ => h0 }, rfl, rfl⟩

theorem witness_BuiltStateFrozen : ∃ t, exec .fadd gf8 = .next t := ⟨_, rfl⟩

/-- One configuration for each check of R151, and one that passes them all. -/
theorem witness_FbuildChecks :
    (¬ Nat.Prime (fieldConfig 1 3 []).fq.toNat ∧ ¬ Nat.Prime (fieldConfig 4 3 []).fq.toNat) ∧
      (Nat.Prime (fieldConfig 2 0 []).fq.toNat ∧ (fieldConfig 2 0 []).fm.toNat < 1 ∧
        (fieldConfig 2 17 []).params.mmax < (fieldConfig 2 17 []).fm.toNat) ∧
      (Nat.Prime (fieldConfig 3 11 []).fq.toNat ∧ (fieldConfig 3 11 []).fm.toNat ≤ (fieldConfig 3 11 []).params.mmax ∧
        (fieldConfig 3 11 []).params.fsmax < (fieldConfig 3 11 []).fq.toNat ^ (fieldConfig 3 11 []).fm.toNat) ∧
      ((fieldConfig 2 3 [1, 0, 2, 1]).fq.toNat ≤ ((fieldConfig 2 3 [1, 0, 2, 1]).poly.getD 2 0).toNat ∧
        ∀ j < 2, ((fieldConfig 2 3 [1, 0, 2, 1]).poly.getD j 0).toNat < (fieldConfig 2 3 [1, 0, 2, 1]).fq.toNat) ∧
      ((∀ i ≤ 3, ((fieldConfig 2 3 [1, 0, 1]).poly.getD i 0).toNat < (fieldConfig 2 3 [1, 0, 1]).fq.toNat) ∧
        (fieldConfig 2 3 [1, 0, 1]).poly.getD (fieldConfig 2 3 [1, 0, 1]).fm.toNat 0 = 0) := by
  refine ⟨⟨by decide, by decide⟩, ⟨by decide, by decide, by decide⟩, ⟨by decide, by decide, by decide⟩, ?_, ?_⟩ <;>
    decide +kernel

/-- The hypotheses of FbuildBuilds on a configuration, a reduction and a table, as one check. -/
def buildsFrom (s : State) (red : List Nat) (T : List (List Nat)) : Bool :=
  s.params.wf && s.fm.toNat ≤ s.params.mmax && s.fq.toNat ^ s.fm.toNat ≤ s.params.fsmax && s.poly.getD s.fm.toNat 0 != 0 &&
    decide (∀ i < s.fm.toNat + 1, (s.poly.getD i 0).toNat < s.fq.toNat) &&
    decide (∀ i < s.fm.toNat, at0 red i < s.fq.toNat ∧
      (at0 red i * (s.poly.getD s.fm.toNat 0).toNat + (s.poly.getD i 0).toNat) % s.fq.toNat = 0) &&
    T.length == s.fq.toNat ^ s.fm.toNat && T.all (fun row => row.length == s.fm.toNat) &&
    decide (∀ d < s.fm.toNat, matAt T 0 d = 0) && decide (∀ d < s.fm.toNat, matAt T 1 d = if d = 0 then 1 else 0) &&
    decide (∀ i < T.length, 2 ≤ i → ∀ d < s.fm.toNat,
      matAt T i d = ((if d = 0 then 0 else matAt T (i - 1) (d - 1)) +
        matAt T (i - 1) (s.fm.toNat - 1) * at0 red d) % s.fq.toNat)

/-- R157, R158; and the modulus 1 + x^2 over GF(2), whose table repeats row 1 at index 3. -/
theorem witness_FbuildBuilds :
    (Nat.Prime 2 ∧ buildsFrom (fieldConfig 2 3 [1, 0, 1, 1]) [1, 0, 1] gf8Rows = true ∧ gf8Rows.Nodup) ∧
      (buildsFrom (fieldConfig 2 2 [1, 0, 1]) [1, 0] [[0, 0], [1, 0], [0, 1], [1, 0]] = true ∧
        [1, 0] ∈ [[0, 0], [1, 0], [0, 1]] ∧ [[0, 0], [1, 0], [0, 1]].Nodup) := by
  refine ⟨⟨by decide, ?_, ?_⟩, ?_, ?_, ?_⟩ <;> decide +kernel

theorem witness_FaddFsubRule : FieldOk { gf8 with opa := 7, opb := 0, ope := 0 } ∧ (7#32).toNat < gf8.fsize.toNat :=
  ⟨(inv_gf8_operands 7 0 0).2, by decide⟩

theorem witness_FmulFdivFinvFpowRule :
    (FieldOk { gf8 with opa := 7, opb := 7, ope := 0x80000000 } ∧ (7#32).toNat < gf8.fsize.toNat ∧ (7#32) ≠ 0) ∧
      (FieldOk { gf8 with opa := 0, opb := 1, ope := 0 } ∧ (0 : Int) ≤ (0#32).toInt) :=
  ⟨⟨(inv_gf8_operands 7 7 0x80000000).2, by decide, by decide⟩, (inv_gf8_operands 0 1 0).2, by decide⟩

theorem witness_Fi2vFv2iRule :
    FieldOk { gf8 with opa := 7, opb := 0, ope := 0 } ∧ gf8.params.wf = true ∧ (7#32).toNat < gf8.fsize.toNat ∧
      ∀ d < gf8.fmB.toNat, (gf8.vreg.getD d 0).toNat < gf8.fqB.toNat :=
  ⟨(inv_gf8_operands 7 0 0).2, by decide, by decide, by decide +kernel⟩

theorem witness_ElementErrors :
    gf8.status.fvalid = true ∧ gf8.fsize.toNat ≤ (8#32).toNat ∧ (7#32).toNat < gf8.fsize.toNat ∧ gf8.opb = 0 ∧
      (0x80000000#32).toInt < 0 ∧
      (∀ d < 2, ((Vector.ofFn fun i : Fin 16 => if i.val = 2 then 2#32 else 1#32).getD d 0).toNat < gf8.fqB.toNat) ∧
      gf8.fqB.toNat ≤ ((Vector.ofFn fun i : Fin 16 => if i.val = 2 then 2#32 else 1#32).getD 2 0).toNat := by
  refine ⟨rfl, by decide, by decide, rfl, by decide, ?_, ?_⟩ <;> decide +kernel

theorem witness_FieldLaws : FieldOk gf9 ∧ 8 < gf9.fsize.toNat := ⟨fieldOk_gf9, by decide⟩

theorem witness_ScalarFrame : ∃ t, exec .fadd gf8 = .next t := ⟨_, exec_after _ _⟩

theorem witness_BuildFrame :
    (∃ t, exec .fi2v gf8 = .next t) ∧ (∃ t, exec .fbuild gf8 = .next t) ∧ ∃ t, exec .cbuild gf8 = .next t :=
  ⟨⟨_, exec_after _ _⟩, ⟨_, exec_after _ _⟩, ⟨_, exec_after _ _⟩⟩

/-! #### The linear code -/

/-- One configuration for each check of R201 over GF(8), n and k: 1, 2, 3, 4, s. -/
theorem witness_CodeErrors :
    gf8.status.fvalid = true ∧ (0 : Nat) < 1 ∧ (7 - 3 ≠ gf8.fmB.toNat) ∧ (7 - 4 = gf8.fmB.toNat) ∧
      (gf8.fsize.toNat - 1) / (gf8.fqB.toNat - 1) < 8 ∧ 7 ≤ (gf8.fsize.toNat - 1) / (gf8.fqB.toNat - 1) ∧
      7 ≤ gf8.params.nbuf - 1 ∧ 2 < (3#32).toNat ∧ min 7 4 ≤ (4#32).toNat := by decide

theorem witness_CodeErrors_depth :
    (gf8.fsize.toNat - 1) / (gf8.fqB.toNat - 1) = 7 ∧
      ({ Params.reference with nbuf := 6, plen := 6, tmax := 2 } : Params).wf = true ∧ 6 - 1 < 7 := by decide

theorem witness_CodeErrors_ranges :
    (hamming 0 0).status.cvalid = true ∧
      (hamming 0 0).fqB.toNat ≤ winNat (setWin (hamming 0 0) .info [1, 2]) .info 1 ∧
      winNat (setWin (hamming 0 0) .info [1, 2]) .info 0 < (hamming 0 0).fqB.toNat ∧
      (codeView (hamming 0 0)).wireLen ≤ winNat (setWin (hamming 0 0) .eras [6, 7]) .eras 1 ∧
      winNat (setWin (hamming 0 0) .eras [6, 7]) .eras 0 < (codeView (hamming 0 0)).wireLen ∧
      (hamming 0 0).params.nbuf < (1025#32).toNat := by decide +kernel

theorem witness_CbuildBuilds :
    FieldOk { gf8 with opa := 0, opb := 0, ope := 0 } ∧ 1 ≤ (4#32).toNat ∧ (4#32).toNat < (7#32).toNat ∧
      (7#32).toNat - (4#32).toNat = gf8.fmB.toNat ∧
      (7#32).toNat ≤ (gf8.fsize.toNat - 1) / (gf8.fqB.toNat - 1) ∧ (7#32).toNat ≤ gf8.params.nbuf - 1 ∧
      (1#32).toNat ≤ 2 ∧ (3#32).toNat < min (7#32).toNat (4#32).toNat :=
  ⟨(inv_gf8_operands 0 0 0).2, by decide⟩

/-- The three variants with an information word. -/
theorem witness_EncRule :
    (∀ v ∈ [(0#32, 0#32), (1#32, 3#32), (2#32, 0#32)],
      Inv (setWin (hamming v.1 v.2) .info [1, 0, 1, 0]) ∧ CodeOk (setWin (hamming v.1 v.2) .info [1, 0, 1, 0])) ∧
    ∀ i < 4, winNat (setWin (hamming 0 0) .info [1, 0, 1, 0]) .info i < 2 := by
  refine ⟨fun v hv => ?_, by decide +kernel⟩
  refine inv_hamming _ v.1 v.2 rfl rfl (setWin_wf _ Memory.wf_nil _ _) rfl rfl rfl rfl rfl rfl
    ⟨rfl, rfl, rfl, rfl, rfl⟩ ?_ ⟨rfl, rfl⟩
  simp only [List.mem_cons, List.not_mem_nil, or_false] at hv
  rcases hv with rfl | rfl | rfl <;> decide

/-- A received word of the Hamming code, one position listed as an erasure. -/
def received (var sh : Word) (word eras : List Nat) : State :=
  { setWin (setWin (hamming var sh) .inp word) .eras eras with neras := toWord eras.length }

theorem inv_received (var sh : Word) (word eras : List Nat)
    (hv : var.toNat ≤ 2 ∧ (var ≠ 1 → sh = 0) ∧ (var = 1 → sh.toNat < 4)) :
    Inv (received var sh word eras) ∧ CodeOk (received var sh word eras) := by
  unfold received
  exact inv_hamming _ var sh rfl rfl (setWin_wf _ (setWin_wf _ Memory.wf_nil _ _) _ _) rfl rfl rfl rfl rfl rfl
    ⟨rfl, rfl, rfl, rfl, rfl⟩ hv ⟨rfl, rfl⟩

theorem witness_SyndRule_HdecFlags_HdecOutputsCodeword :
    Inv (received 2 0 [1, 0, 1, 0, 1, 1, 0, 2] [7, 0]) ∧ CodeOk (received 2 0 [1, 0, 1, 0, 1, 1, 0, 2] [7, 0]) ∧
      ErasuresOk (received 2 0 [1, 0, 1, 0, 1, 1, 0, 2] [7, 0]) :=
  ⟨(inv_received 2 0 _ _ (by decide)).1, (inv_received 2 0 _ _ (by decide)).2, by
    unfold ErasuresOk; decide +kernel⟩

/-- The code word of R211 with symbol 0 erased and symbol 1 changed (R245 (d)): ERAS_OK with a syndrome that is not 0. -/
theorem witness_HdecOutputsCodeword_inconsistent :
    ErasuresOk (received 0 0 [9, 1, 1, 0, 1, 1, 0] []) ∧
      (after .hdec (received 0 0 [9, 1, 1, 0, 1, 1, 0] [])).dstat.erasOk = true ∧
      ∃ i < 3, winNat (after .hdec (received 0 0 [9, 1, 1, 0, 1, 1, 0] [])) .syn i ≠ 0 := by
  unfold ErasuresOk
  decide +kernel

/-- R254 (d): the Extended word of R211 with symbols 0 and 6 flipped. -/
theorem witness_HdecFlags_double :
    (received 2 0 [0, 0, 1, 0, 1, 1, 1, 0] []).fqB = 2 ∧ (received 2 0 [0, 0, 1, 0, 1, 1, 1, 0] []).cvarB = 2 ∧
      (received 2 0 [0, 0, 1, 0, 1, 1, 1, 0] []).neras = 0 ∧
      IsCodeword (received 2 0 [0, 0, 1, 0, 1, 1, 1, 0] []) (at0 [1, 0, 1, 0, 1, 1, 0, 0]) ∧
      ∀ j < 7 + 1, winNat (received 2 0 [0, 0, 1, 0, 1, 1, 1, 0] []) .inp j =
        if j = 0 ∨ j = 6 then 1 - at0 [1, 0, 1, 0, 1, 1, 0, 0] j else at0 [1, 0, 1, 0, 1, 1, 0, 0] j := by
  unfold IsCodeword
  decide +kernel

/-- R255: the code word of R211, symbol 2 changed; and the last symbol of its Extended word. -/
theorem witness_HdecSingleError :
    (IsCodeword (received 0 0 [1, 0, 0, 0, 1, 1, 0] []) (at0 [1, 0, 1, 0, 1, 1, 0]) ∧
      ∀ i < 7, winNat (received 0 0 [1, 0, 0, 0, 1, 1, 0] []) .inp i =
        if i = 2 then (at0 [1, 0, 1, 0, 1, 1, 0] i + 1) % 2 else at0 [1, 0, 1, 0, 1, 1, 0] i) ∧
    (IsCodeword (received 2 0 [1, 0, 1, 0, 1, 1, 0, 1] []) (at0 [1, 0, 1, 0, 1, 1, 0, 0]) ∧
      ∀ i < 8, winNat (received 2 0 [1, 0, 1, 0, 1, 1, 0, 1] []) .inp i =
        if i = 7 then (at0 [1, 0, 1, 0, 1, 1, 0, 0] i + 1) % 2 else at0 [1, 0, 1, 0, 1, 1, 0, 0] i) := by
  unfold IsCodeword
  decide +kernel

/-- The code word of R211 with position 0 named by a sentinel and position 6 by ERAS. -/
theorem witness_HdecFillsErasures :
    IsCodeword (received 0 0 [9, 0, 1, 0, 1, 1, 0] [6]) (at0 [1, 0, 1, 0, 1, 1, 0]) ∧
      ErasuresOk (received 0 0 [9, 0, 1, 0, 1, 1, 0] [6]) ∧
      (∀ j < 7, (2 ≤ winNat (received 0 0 [9, 0, 1, 0, 1, 1, 0] [6]) .inp j ∨
        ∃ x < 1, winNat (received 0 0 [9, 0, 1, 0, 1, 1, 0] [6]) .eras x = j) ↔ (j = 0 ∨ j = 6)) ∧
      ∀ j < 7, j ≠ 0 → j ≠ 6 → winNat (received 0 0 [9, 0, 1, 0, 1, 1, 0] [6]) .inp j = at0 [1, 0, 1, 0, 1, 1, 0] j := by
  unfold IsCodeword ErasuresOk
  decide +kernel

/-- The core after ENC of R211's information word. -/
def encoded : State := after .enc (setWin (hamming 0 0) .info [1, 0, 1, 0])

/-- The word ENC wrote put to IN, and HDEC running. -/
def decoding : State :=
  { setWin encoded .inp [1, 0, 1, 0, 1, 1, 0] with
    cmd := 0x22, status := { encoded.status with busy := true, done := false } }

/-- What the built field and code are made of: the sizes, the valid bits, the snapshot registers and the tables. -/
def built (s : State) : State :=
  { State.reset with
    params := s.params, status := { Status.clear with fvalid := s.status.fvalid, cvalid := s.status.cvalid }
    fsize := s.fsize, fqB := s.fqB, fmB := s.fmB, elem := s.elem, v2i := s.v2i
    cnB := s.cnB, ckB := s.ckB, cvarB := s.cvarB, csB := s.csB, hmat := s.hmat }

/-- No other part of the state bears on whether a code is built. -/
theorem codeOk_built (s : State) : CodeOk (built s) ↔ CodeOk s :=
  ⟨fun h => { h with field := { h.field with } }, fun h => { h with field := { h.field with } }⟩

/-- ENC and the host's write of IN leave the built field and code, and the window memory stays canonical. -/
theorem inv_decoding : Inv decoding := by
  have same : built decoding = built (received 0 0 [] []) := by decide +kernel
  have code : CodeOk decoding := by
    rw [← codeOk_built, same, codeOk_built]
    exact (inv_received 0 0 [] [] (by decide)).2
  exact inv_of_field _ rfl rfl (by decide +kernel) code.field (.inr code) (by unfold ErrorsAgree; decide +kernel)

/-- The step from there is HDEC's meaning (R211, R255's clean word). -/
theorem witness_EncThenHdec :
    exec .enc (setWin (hamming 0 0) .info [1, 0, 1, 0]) = .next encoded ∧ Inv decoding ∧ decoding.neras = 0 ∧
      decoding.params = encoded.params ∧ decoding.status.fvalid = encoded.status.fvalid ∧
      decoding.status.cvalid = encoded.status.cvalid ∧ fieldView decoding = fieldView encoded ∧
      codeView decoding = codeView encoded ∧ decoding.elem = encoded.elem ∧ decoding.v2i = encoded.v2i ∧
      decoding.hmat = encoded.hmat ∧
      (∀ j < 7, winNat decoding .inp j = winNat encoded .out j) ∧ step decoding = exec .hdec decoding := by
  refine ⟨exec_after _ _, inv_decoding, by decide +kernel, rfl, rfl, rfl, rfl, rfl, rfl, rfl, rfl, by decide +kernel, ?_⟩
  rw [step_completion (by decide +kernel)]
  rfl

theorem witness_CodeFrame :
    Memory.wf (hamming 0 0).win = true ∧ (∃ t, exec .enc (hamming 0 0) = .next t) ∧
      (∃ t, exec .synd (hamming 0 0) = .next t) ∧ ∃ t, exec .hdec (hamming 0 0) = .next t :=
  ⟨by decide, ⟨_, exec_after _ _⟩, ⟨_, exec_after _ _⟩, ⟨_, exec_after _ _⟩⟩

/-! #### The BCH path and the polynomial unit -/

/-- A field that is not binary, and the parameters and words that each check of R280, R284, R290 and R188 refuses. -/
theorem witness_BinaryErrors :
    gf9.status.fvalid = true ∧ gf9.fqB ≠ 2 ∧ gf16.fqB = 2 ∧ gf16.fsize.toNat - 1 < (16#32).toNat ∧
      gf16.params.tmax < (33#32).toNat ∧ gf16.params.nbuf < (1025#32).toNat ∧ gf16.params.plen < (1025#32).toNat ∧
      1 < winNat (setWin gf16 .inp [1, 2]) .inp 1 ∧ gf16.fsize.toNat ≤ winNat (setWin gf16 .syn [15, 16]) .syn 1 ∧
      gf16.fsize.toNat ≤ winNat (setWin gf16 .lambda [15, 16]) .lambda 1 ∧
      gf16.fsize.toNat ≤ winNat (setWin gf16 .pa [15, 16]) .pa 1 ∧
      gf16.fsize.toNat ≤ winNat (setWin gf16 .pb [15, 16]) .pb 1 ∧ gf16.fsize.toNat ≤ (16#32).toNat := by
  decide +kernel

theorem witness_BinaryErrors_parameters :
    BchLength (bchWord []) ∧ BchCapacity (bchWord []) ∧
      OperandA (polys [7, 0] [0, 0]) ∧ OperandB (polys [7, 0] [0, 0]) ∧
      ∀ x < 2, winNat (polys [7, 0] [0, 0]) .pb x = 0 := by
  unfold BchLength BchCapacity OperandA OperandB
  decide +kernel

theorem witness_BinaryErrors_depth :
    ({ Params.reference with nbuf := 8, plen := 8, tmax := 3 } : Params).wf = true ∧ 8 < (15#32).toNat ∧
      (15#32).toNat ≤ gf16.fsize.toNat - 1 := by decide

theorem inv_bchBits (w : List Nat) : Inv (bchBits w) ∧ BinaryField (bchBits w) := by
  unfold bchBits
  exact inv_gf16 _ rfl rfl (setWin_wf _ Memory.wf_nil _ _) rfl rfl rfl rfl rfl rfl ⟨rfl, rfl, rfl, rfl, rfl⟩ ⟨rfl, rfl⟩

theorem inv_bchWord (ones : List Nat) : Inv (bchWord ones) ∧ BinaryField (bchWord ones) := inv_bchBits _

/-- R283: the word of BSYN, whose syndromes are not all 0. -/
theorem witness_BsynRule_BdecComposes :
    Inv (bchWord [3, 10]) ∧ BinaryField (bchWord [3, 10]) ∧ BchLength (bchWord [3, 10]) ∧
      BchCapacity (bchWord [3, 10]) ∧ BchBits (bchWord [3, 10]) ∧
      ¬ ∀ u < 2 * (bchWord [3, 10]).bt.toNat, IsBchSyndrome (bchWord [3, 10]) u 0 := by
  refine ⟨(inv_bchWord _).1, (inv_bchWord _).2, ?_⟩
  unfold BchLength BchCapacity BchBits IsBchSyndrome IsXorSum
  decide +kernel

/-- R299 (d): a word with more located positions than t, which BDEC reports as UNCORRECTABLE. -/
theorem witness_BdecComposes_uncorrectable :
    Inv (bchWord [1, 2, 3, 7, 8]) ∧ BinaryField (bchWord [1, 2, 3, 7, 8]) ∧ BchLength (bchWord [1, 2, 3, 7, 8]) ∧
      BchCapacity (bchWord [1, 2, 3, 7, 8]) ∧ BchBits (bchWord [1, 2, 3, 7, 8]) ∧
      (¬ ∀ u < 2 * (bchWord [1, 2, 3, 7, 8]).bt.toNat, IsBchSyndrome (bchWord [1, 2, 3, 7, 8]) u 0) ∧
      (bchWord [1, 2, 3, 7, 8]).bt.toNat <
        (after .chien (after .bm (after .bsyn (bchWord [1, 2, 3, 7, 8])))).result0.toNat := by
  refine ⟨(inv_bchWord _).1, (inv_bchWord _).2, ?_⟩
  unfold BchLength BchCapacity BchBits IsBchSyndrome IsXorSum
  decide +kernel

/-- R299 (c): the zero word. -/
theorem witness_BdecCleanWord :
    Inv (bchWord []) ∧ BinaryField (bchWord []) ∧ BchLength (bchWord []) ∧ BchCapacity (bchWord []) ∧
      BchBits (bchWord []) ∧ ∀ u < 2 * (bchWord []).bt.toNat, IsBchSyndrome (bchWord []) u 0 := by
  refine ⟨(inv_bchWord _).1, (inv_bchWord _).2, ?_⟩
  unfold BchLength BchCapacity BchBits IsBchSyndrome IsXorSum
  decide +kernel

/-- The syndromes of R287, and the zero sequence. -/
theorem witness_BmRule_BmGeneratesSequence :
    (∀ w ∈ [[13, 10, 8, 4], [0, 0, 0, 0]],
      Inv (setWin (bchWord []) .syn w) ∧ BinaryField (setWin (bchWord []) .syn w) ∧
        BchCapacity (setWin (bchWord []) .syn w)) ∧
    (∀ u < 4, winNat (setWin (bchWord []) .syn [13, 10, 8, 4]) .syn u < 16) ∧
    (∀ u < 4, winNat (setWin (bchWord []) .syn [0, 0, 0, 0]) .syn u = 0) ∧
    ∃ t, exec .bm (setWin (bchWord []) .syn [13, 10, 8, 4]) = .next t ∧ t.lreg.toNat ≤ 2 := by
  refine ⟨fun w _ => ?_, by decide +kernel, by decide +kernel,
    ⟨_, exec_after _ _, by decide +kernel⟩⟩
  have h := inv_gf16 (setWin (bchWord []) .syn w) rfl rfl (setWin_wf _ (inv_bchWord []).1.memory _ _) rfl rfl rfl rfl rfl
    rfl ⟨rfl, rfl, rfl, rfl, rfl⟩ ⟨rfl, rfl⟩
  exact ⟨h.1, h.2, (by decide : 1 ≤ (2#32).toNat), (by decide : (2#32).toNat ≤ 32)⟩

/-- The syndromes of R287 and the locator printed there, which generates them from L = 2 on. -/
theorem witness_BmGeneratesSequence_minimal :
    (∀ u < 4, winNat (setWin (bchWord []) .syn [13, 10, 8, 4]) .syn u < 16) ∧
      at0 [1, 13, 14] 0 = 1 ∧ (∀ i, at0 [1, 13, 14] i < 16) ∧
      Generates (setWin (bchWord []) .syn [13, 10, 8, 4]) (at0 [1, 13, 14]) 2 := by
  refine ⟨by decide +kernel, rfl, fun i => ?_, ?_⟩
  · by_cases h : i < 3
    · revert i; decide
    · simp [at0, List.getD, List.getElem?_eq_none (show [1, 13, 14].length ≤ i by simp; omega)]
  · intro r h h'
    have hr : r < 4 := h'
    have : ∀ r < 4, 2 ≤ r → IsXorSum (setWin (bchWord []) .syn [13, 10, 8, 4]) 0 (List.range (2 + 1)) fun i =>
        mulIndex (setWin (bchWord []) .syn [13, 10, 8, 4]) (at0 [1, 13, 14] i)
          (winNat (setWin (bchWord []) .syn [13, 10, 8, 4]) .syn (r - i)) := by
      unfold IsXorSum; decide +kernel
    exact this r hr h

/-- R291: the locator of R287, and the length 0. -/
theorem witness_ChienRule :
    ∀ len ∈ [0#32, 3#32],
      Inv { setWin (bchWord []) .lambda [1, 13, 14] with llen := len } ∧
        BinaryField { setWin (bchWord []) .lambda [1, 13, 14] with llen := len } ∧
        len.toNat ≤ gf16.params.nbuf ∧ ∀ i < 3, winNat (setWin (bchWord []) .lambda [1, 13, 14]) .lambda i < 16 := by
  intro len hl
  have hw : Memory.wf (setWin (bchWord []) .lambda [1, 13, 14]).win = true :=
    setWin_wf _ (inv_bchWord []).1.memory _ _
  have h := inv_gf16 { setWin (bchWord []) .lambda [1, 13, 14] with llen := len } rfl rfl hw rfl rfl rfl rfl rfl rfl
    ⟨rfl, rfl, rfl, rfl, rfl⟩ ⟨rfl, rfl⟩
  refine ⟨h.1, h.2, ?_, by decide +kernel⟩
  simp only [List.mem_cons, List.not_mem_nil, or_false] at hl
  rcases hl with rfl | rfl <;> decide

theorem witness_BchFrame :
    Memory.wf gf16.win = true ∧ (∃ t, exec .bsyn gf16 = .next t) ∧ (∃ t, exec .bm gf16 = .next t) ∧
      (∃ t, exec .chien gf16 = .next t) ∧ ∃ t, exec .bdec (bchWord [3, 10]) = .next t :=
  ⟨by decide, ⟨_, exec_after _ _⟩, ⟨_, exec_after _ _⟩, ⟨_, exec_after _ _⟩, ⟨_, exec_after _ _⟩⟩

theorem inv_polys (a b : List Nat) : Inv (polys a b) ∧ FieldOk (polys a b) := by
  unfold polys
  exact inv_gf8 _ rfl rfl (setWin_wf _ (setWin_wf _ Memory.wf_nil _ _) _ _)
    rfl rfl rfl rfl rfl rfl ⟨rfl, rfl, rfl, rfl, rfl⟩ ⟨rfl, rfl⟩

/-- R188's operands; for PDIVMOD the divisor is not zero. -/
theorem witness_polynomial_rules :
    Inv (polys [3, 0, 1] [2, 1]) ∧ BinaryField (polys [3, 0, 1] [2, 1]) ∧ OperandA (polys [3, 0, 1] [2, 1]) ∧
      OperandB (polys [3, 0, 1] [2, 1]) ∧
      (∃ i < (polys [3, 0, 1] [2, 1]).pblen.toNat, winNat (polys [3, 0, 1] [2, 1]) .pb i ≠ 0) ∧
      (polys [3, 0, 1] [2, 1]).opa.toNat < gf8.fsize.toNat := by
  refine ⟨(inv_polys _ _).1, ⟨(inv_polys _ _).2, rfl⟩, ?_⟩
  unfold OperandA OperandB
  decide +kernel

/-- Operands of length 0, and a product longer than a P_PLEN of 3. -/
theorem witness_PmulRule_zero_and_long :
    (OperandA (polys [] []) ∧ OperandB (polys [] []) ∧ ∀ i < (polys [] []).palen.toNat, winNat (polys [] []) .pa i = 0) ∧
      ({ Params.reference with plen := 3 } : Params).wf = true ∧
      3 < degreeLength (polys [3, 0, 1] [2, 1]) .pa 3 + degreeLength (polys [3, 0, 1] [2, 1]) .pb 2 - 1 := by
  unfold OperandA OperandB
  decide +kernel

theorem witness_PgcdPxgcdRule :
    (BinaryField (polys [4, 7, 1] [6, 4, 1]) ∧ OperandA (polys [4, 7, 1] [6, 4, 1]) ∧
      OperandB (polys [4, 7, 1] [6, 4, 1])) ∧
    (∀ c ∈ polyA (polys [0] []) ++ polyB (polys [0] []), c = 0) ∧
      ∃ c ∈ polyA (polys [3, 0, 1] [2, 1]) ++ polyB (polys [3, 0, 1] [2, 1]), c ≠ 0 := by
  refine ⟨⟨⟨(inv_polys _ _).2, rfl⟩, ?_⟩, ?_⟩
  · unfold OperandA OperandB; decide +kernel
  · decide +kernel

theorem witness_PolynomialFrame :
    Memory.wf gf8.win = true ∧ (∃ t, exec .padd gf8 = .next t) ∧ (∃ t, exec .pdivmod gf8 = .next t) ∧
      ∃ t, exec .pxgcd gf8 = .next t :=
  ⟨by decide, ⟨_, exec_after _ _⟩, ⟨_, exec_after _ _⟩, ⟨_, exec_after _ _⟩⟩

end Sys2Proof.Tests
end

section
/-! SUPPORT. The bus layer of the state statements: where each offset of the address map is located
(spec/20_memory.md R81), and what one legal access does in the idle and in the busy core (spec/10_state.md R53). -/

namespace Sys2Proof.Machine

open Sys2Proof

/-! ### Where an offset is located -/

theorem mmax_le_of_wf {p : Params} (h : p.wf = true) : p.mmax ≤ 16 := by
  simp [Params.wf] at h
  omega

theorem nbuf_le_of_wf {p : Params} (h : p.wf = true) : p.nbuf ≤ 1024 := by
  simp [Params.wf] at h
  omega

theorem regTable_lookup_of_mem : ∀ x ∈ regTable, regTable.lookup x.1 = some x.2 := by decide

theorem locate_of_mem_regTable (p : Params) {off : Nat} {r : Reg} (h : (off, r) ∈ regTable) :
    locate p off = .reg r := by
  simp [locate, regTable_lookup_of_mem _ h]

/-- Only the offset of a register is located as that register. -/
theorem mem_regTable_of_locate {p : Params} {off : Nat} {r : Reg} (h : locate p off = .reg r) :
    (off, r) ∈ regTable := by
  unfold locate at h
  split at h
  · rename_i r' hr
    cases h
    obtain ⟨l₁, l₂, heq, -⟩ := List.lookup_eq_some_iff.1 hr
    rw [heq]
    simp
  · repeat' split at h
    all_goals cases h

theorem locate_vreg {p : Params} {d : Nat} (hp : p.wf = true) (hd : d < p.mmax) :
    locate p (0x0C0 + 4 * d) = .vreg d := by
  have := mmax_le_of_wf hp
  simp only [locate, regTable_lookup_none _ (show _ ∨ _ ∨ 0x0C0 ≤ 0x0C0 + 4 * d by omega)]
  rw [if_pos (by omega), Nat.add_sub_cancel_left, Nat.mul_div_cancel_left _ (by omega)]

theorem locate_poly {p : Params} {i : Nat} (hp : p.wf = true) (hi : i ≤ p.mmax) :
    locate p (0x100 + 4 * i) = .poly i := by
  have := mmax_le_of_wf hp
  simp only [locate, regTable_lookup_none _ (show _ ∨ _ ∨ 0x0C0 ≤ 0x100 + 4 * i by omega)]
  rw [if_neg (by omega), if_pos (by omega), Nat.add_sub_cancel_left, Nat.mul_div_cancel_left _ (by omega)]

/-- The windows stand one after another, 0x1000 bytes each (R45). -/
theorem winOrder_winBase (w : Win) :
    0x1000 ≤ winBase w ∧ winBase w < 0xD000 ∧ winBase w % 0x1000 = 0 ∧ winOrder[winBase w / 0x1000 - 1]? = some w := by
  cases w <;> decide

theorem locate_window {p : Params} {w : Win} {i : Nat} (hp : p.wf = true) (hi : i < p.nbuf) :
    locate p (winBase w + 4 * i) = .window w i := by
  have hmmax := mmax_le_of_wf hp
  have hnbuf := nbuf_le_of_wf hp
  obtain ⟨hlo, -, hmod, hord⟩ := winOrder_winBase w
  have hdiv : (winBase w + 4 * i) / 0x1000 = winBase w / 0x1000 := by omega
  have hidx : (winBase w + 4 * i) % 0x1000 / 4 = i := by omega
  simp only [locate, regTable_lookup_none _ (show _ ∨ _ ∨ 0x0C0 ≤ winBase w + 4 * i by omega), hdiv, hidx, hord]
  rw [if_neg (by omega), if_neg (by omega), if_pos (by omega), if_pos hi]

/-- Below VREG the map names every word but the reserved ones (R81). -/
theorem regTable_covers : ∀ k < 0x2A, 4 * k = 0x07C ∨ ∃ x ∈ regTable, x.1 = 4 * k := by decide

theorem exists_winBase : ∀ k < 12, ∃ w, winBase w = 0x1000 * (k + 1) := by
  intro k hk
  interval_cases k
  exacts [⟨.inp, rfl⟩, ⟨.out, rfl⟩, ⟨.info, rfl⟩, ⟨.syn, rfl⟩, ⟨.lambda, rfl⟩, ⟨.pos, rfl⟩, ⟨.eras, rfl⟩,
    ⟨.pa, rfl⟩, ⟨.pb, rfl⟩, ⟨.pr0, rfl⟩, ⟨.pr1, rfl⟩, ⟨.pr2, rfl⟩]

/-- Every word of the region is a register, a word of VREG or POLY, a window word, or reserved (R81). -/
theorem offset_cases {p : Params} {off : Nat} (h : off < 0x10000) (h4 : off % 4 = 0) :
    (∃ r, (off, r) ∈ regTable) ∨ (∃ d < p.mmax, off = 0x0C0 + 4 * d) ∨ (∃ i ≤ p.mmax, off = 0x100 + 4 * i) ∨
      (∃ w, ∃ i < p.nbuf, off = winBase w + 4 * i) ∨ reservedOffset p off ∨ beyondMmax p off := by
  unfold reservedOffset beyondMmax
  rcases Nat.lt_or_ge off 0x0A8 with hreg | hreg
  · rcases regTable_covers (off / 4) (by omega) with hk | ⟨⟨off', r⟩, hmem, hoff⟩
    · omega
    · have : off = off' := by simp only at hoff; omega
      exact .inl ⟨r, this ▸ hmem⟩
  rcases Nat.lt_or_ge off 0x1000 with hlow | hlow
  · by_cases hv : 0x0C0 ≤ off ∧ off < 0x0C0 + 4 * p.mmax
    · exact .inr (.inl ⟨(off - 0x0C0) / 4, by omega, by omega⟩)
    by_cases hy : 0x100 ≤ off ∧ off < 0x104 + 4 * p.mmax
    · exact .inr (.inr (.inl ⟨(off - 0x100) / 4, by omega, by omega⟩))
    omega
  by_cases hw : off < 0xD000 ∧ off % 0x1000 / 4 < p.nbuf
  · obtain ⟨w, hbase⟩ := exists_winBase (off / 0x1000 - 1) (by omega)
    exact .inr (.inr (.inr (.inl ⟨w, off % 0x1000 / 4, hw.2, by omega⟩)))
  · omega

/-! ### One legal access -/

theorem not_completionDue_of_idle {s : State} (h : s.status.busy = false) : completionDue s = false := by
  simp [completionDue, h]

@[simp] theorem readLoc_served (s : State) (rest : List BusStep) (l : Loc) :
    readLoc (served s rest) l = readLoc s l := by
  cases l with
  | reg r => cases r <;> rfl
  | vreg d => rfl
  | poly i => rfl
  | window w i => rfl
  | reserved => rfl

/-- A location whose value R53 shows while BUSY = 1 reads its value whether or not BUSY = 1. -/
theorem busRead_value {s : State} {l : Loc} (hv : s.status.busy = true → busyReadLoc l = .value) :
    busRead s l = { s with resp := .data (readLoc s l) } := by
  cases hb : s.status.busy with
  | false => simp only [busRead, hb, Bool.false_eq_true, if_false]
  | true => simp only [busRead, hb, if_true, hv hb]

/-- A location that R53 shows as 0 while BUSY = 1. -/
theorem busRead_zero {s : State} {l : Loc} (hb : s.status.busy = true) (hz : busyReadLoc l = .zero) :
    busRead s l = { s with resp := .data 0 } := by
  simp only [busRead, hb, if_true, hz]

/-- A location that R53 leaves open while BUSY = 1 answers the next free value. -/
theorem busRead_unspecified {s : State} {l : Loc} (hb : s.status.busy = true) (hu : busyReadLoc l = .unspecified) :
    busRead s l = { s with resp := .data (Config.freeBusData s.draws), draws := s.draws + 1 } := by
  simp only [busRead, hb, if_true, hu]

section Read

variable {s : State} {off : Nat} {rest : List BusStep} {l : Loc}
  (hd : completionDue s = false) (h : off < 0x10000) (h4 : off % 4 = 0) (hl : locate s.params off = l)
  (hr : ReadNext s off rest)

include hd h h4 hl hr

theorem step_read_value (hv : s.status.busy = true → busyReadLoc l = .value) :
    step s = .next { served s rest with resp := .data (readLoc s l) } := by
  rw [step_read hd h h4 hr, hl, busRead_value (s := served s rest) hv, readLoc_served]

theorem step_read_zero (hb : s.status.busy = true) (hz : busyReadLoc l = .zero) :
    step s = .next { served s rest with resp := .data 0 } := by
  rw [step_read hd h h4 hr, hl, busRead_zero (s := served s rest) hb hz]

theorem step_read_unspecified (hb : s.status.busy = true) (hu : busyReadLoc l = .unspecified) :
    step s = .next { served s rest with resp := .data (Config.freeBusData s.draws), draws := s.draws + 1 } := by
  rw [step_read hd h h4 hr, hl, busRead_unspecified (s := served s rest) hb hu]
  rfl

end Read

/-- In the idle core a read answers the value of its location (R84). -/
theorem step_read_idle {s : State} {off : Nat} {rest : List BusStep} {l : Loc} (hb : s.status.busy = false)
    (h : off < 0x10000) (h4 : off % 4 = 0) (hl : locate s.params off = l) (hr : ReadNext s off rest) :
    step s = .next { served s rest with resp := .data (readLoc s l) } :=
  step_read_value (not_completionDue_of_idle hb) h h4 hl hr (by simp [hb])

theorem busWrite_idle {s : State} (hb : s.status.busy = false) (l : Loc) (v : Word) :
    busWrite s l v = { writeLoc s v l with resp := .written } := by
  simp only [busWrite, hb, Bool.false_eq_true, if_false]

/-- In the busy core a write to anything but CTRL and STATUS is lost and sets WOB (R53). -/
theorem busWrite_lost {s : State} {l : Loc} (hb : s.status.busy = true) (hc : l ≠ .reg .ctrl)
    (hs : l ≠ .reg .status) (v : Word) : busWrite s l v = { loseWrite s with resp := .written } := by
  simp only [busWrite, hb, if_true]

/-- A write to STATUS acts whether or not BUSY = 1 (R33, R53). -/
theorem busWrite_status (s : State) (v : Word) :
    busWrite s (.reg .status) v = { ackStatus v s with resp := .written } := by
  cases hb : s.status.busy <;> simp only [busWrite, hb, if_true, Bool.false_eq_true, if_false, writeLoc, writeReg]

/-- A write to CTRL acts whether or not BUSY = 1 (R32, R53). -/
theorem busWrite_ctrl (s : State) (v : Word) :
    busWrite s (.reg .ctrl) v = { writeCtrl s v with resp := .written } := by
  cases hb : s.status.busy <;> simp only [busWrite, hb, if_true, Bool.false_eq_true, if_false, writeLoc, writeReg]

/-- In the idle core a write acts on its location. -/
theorem step_write_idle {s : State} {off : Nat} {v : Word} {rest : List BusStep} {l : Loc}
    (hb : s.status.busy = false) (h : off < 0x10000) (h4 : off % 4 = 0) (hl : locate s.params off = l)
    (hw : WriteNext s off v rest) :
    step s = .next { writeLoc (served s rest) v l with resp := .written } := by
  rw [step_write (not_completionDue_of_idle hb) h h4 hw, hl, busWrite_idle (s := served s rest) hb]

/-- In the busy core a write to anything but CTRL and STATUS changes nothing but WOB. -/
theorem step_write_lost {s : State} {off : Nat} {v : Word} {rest : List BusStep} {l : Loc}
    (hd : completionDue s = false) (hb : s.status.busy = true) (h : off < 0x10000) (h4 : off % 4 = 0)
    (hl : locate s.params off = l) (hc : l ≠ .reg .ctrl) (hs : l ≠ .reg .status) (hw : WriteNext s off v rest) :
    step s = .next { served s rest with resp := .written, status := { s.status with wob := true } } := by
  rw [step_write hd h h4 hw, hl, busWrite_lost (s := served s rest) hb hc hs]
  rfl

/-- A write to STATUS clears DONE, ERR and WOB where it has a 1. -/
theorem step_write_status {s : State} {v : Word} {rest : List BusStep} (hd : completionDue s = false)
    (hw : WriteNext s 0x008 v rest) :
    step s = .next { served s rest with resp := .written, status := statusW1C s.status v } := by
  rw [step_write hd (by omega) (by omega) hw, locate_of_mem_regTable _ (r := .status) (by decide), busWrite_status]
  rfl

/-- A write to CTRL without SRST stores IE. -/
theorem step_write_ctrl {s : State} {v : Word} {rest : List BusStep} (hd : completionDue s = false)
    (hv : v.getLsbD 1 = false) (hw : WriteNext s 0x004 v rest) :
    step s = .next { served s rest with resp := .written, ie := v.getLsbD 0 } := by
  rw [step_write hd (by omega) (by omega) hw, locate_of_mem_regTable _ (r := .ctrl) (by decide), busWrite_ctrl,
    writeCtrl, hv]
  rfl

end Sys2Proof.Machine
end

section
/-! PROOFS. The registers and the bus of spec/10_state.md: CMD (O6), the rules while BUSY = 1 (O7, O8), STATUS, CTRL and
WAIT (O9), reserved offsets (O14), register readback (O15) and the windows (O16). -/

namespace Sys2Proof.Machine

open Sys2Proof

/-! ### CMD -/

/-- What the word decides at the start of a command: FBUILD and CBUILD clear, every other word has no effect on start. -/
theorem onStart_cases (w : Word) (s : State) :
    (decode w = .ok .fbuild ∧ onStart w s = clearField s) ∨
      (decode w = .ok .cbuild ∧ onStart w s = clearCode s) ∨
      (decode w ≠ .ok .fbuild ∧ decode w ≠ .ok .cbuild ∧ onStart w s = s) := by
  unfold onStart
  split
  · exact .inl ⟨‹_›, rfl⟩
  · exact .inr (.inl ⟨‹_›, rfl⟩)
  · exact .inr (.inr ⟨‹_›, ‹_›, rfl⟩)

/-- The state an accepted CMD write leaves, but for what the command does on start (R34). -/
def acceptedState (s : State) (v : Word) : State :=
  { s with
    cmd := v, errcode := .noError, errinfo := 0
    status := { s.status with busy := true, done := false, err := false }
    resp := .written, delay := Config.freeDelay s.draws, draws := s.draws + 1 }

/-- An idle write to CMD answers the accepted state with the on-start effects of the word. -/
theorem step_write_cmd {s : State} {v : Word} {rest : List BusStep} (hb : s.status.busy = false)
    (hw : WriteNext s 0x00C v rest) :
    (decode v = .ok .fbuild ∧ step s = .next (clearField (acceptedState (served s rest) v))) ∨
      (decode v = .ok .cbuild ∧ step s = .next (clearCode (acceptedState (served s rest) v))) ∨
      (decode v ≠ .ok .fbuild ∧ decode v ≠ .ok .cbuild ∧ step s = .next (acceptedState (served s rest) v)) := by
  rw [step_write_idle hb (by omega) (by omega) (locate_of_mem_regTable _ (r := .cmd) (by decide)) hw]
  simp only [writeLoc, writeReg, acceptCommand, startCommand]
  rcases onStart_cases v _ with ⟨hdec, h⟩ | ⟨hdec, h⟩ | ⟨hf, hc, h⟩
  · exact .inl ⟨hdec, by rw [h]; rfl⟩
  · exact .inr (.inl ⟨hdec, by rw [h]; rfl⟩)
  · exact .inr (.inr ⟨hf, hc, by rw [h]; rfl⟩)

theorem noCode_clearCode (s : State) : NoCode (clearCode s) := ⟨rfl, rfl, rfl, rfl, rfl, rfl⟩

theorem noField_clearField (s : State) : NoField (clearField s) := ⟨rfl, rfl, rfl, rfl, rfl, rfl⟩

theorem noCode_clearField (s : State) : NoCode (clearField s) := ⟨rfl, rfl, rfl, rfl, rfl, rfl⟩

/-- Settles O6: the three kinds of words by `step_write_cmd`; the busy write is lost, and CMD reads its value always. -/
theorem cmdRegister : Obligations.CmdRegister := by
  unfold Obligations.CmdRegister
  intro s v rest hd
  have hloc : locate s.params 0x00C = .reg .cmd := locate_of_mem_regTable _ (by decide)
  refine ⟨fun hw hb => ?_, fun hw hb => ?_, fun hr => ?_⟩
  · rcases step_write_cmd hb hw with ⟨hdec, h⟩ | ⟨hdec, h⟩ | ⟨hf, hc, h⟩
    · exact ⟨_, h, rfl, rfl, rfl, rfl, rfl, rfl, rfl, rfl, fun hf => absurd hdec hf,
        fun _ => ⟨rfl, noField_clearField _, noCode_clearField _⟩, fun hc => by simp [hdec] at hc⟩
    · exact ⟨_, h, rfl, rfl, rfl, rfl, rfl, rfl, rfl, rfl, fun _ hc => absurd hdec hc,
        fun hf => by simp [hdec] at hf, fun _ => ⟨rfl, noCode_clearCode _⟩⟩
    · exact ⟨_, h, rfl, rfl, rfl, rfl, rfl, rfl, rfl, rfl, fun _ _ => rfl, fun hf' => absurd hf' hf,
        fun hc' => absurd hc' hc⟩
  · exact step_write_lost hd hb (by omega) (by omega) hloc (by decide) (by decide) hw
  · exact step_read_value hd (by omega) (by omega) hloc hr fun _ => rfl

/-! ### The bus while BUSY = 1 -/

/-- CTRL and STATUS stand at one offset each. -/
theorem offset_of_ctrl_status :
    ∀ x ∈ regTable, (x.2 = .ctrl → x.1 = 0x004) ∧ (x.2 = .status → x.1 = 0x008) := by decide

/-- Settles O7: at any offset but theirs no location is CTRL or STATUS, so the write is lost. -/
theorem busyWrites : Obligations.BusyWrites := by
  unfold Obligations.BusyWrites
  intro s off v rest hb hd hw h h4
  refine ⟨fun hctrl hstatus => ?_, ?_, ?_⟩
  · refine step_write_lost hd hb h h4 rfl (fun hl => hctrl ?_) (fun hl => hstatus ?_) hw
    · exact (offset_of_ctrl_status _ (mem_regTable_of_locate hl)).1 rfl
    · exact (offset_of_ctrl_status _ (mem_regTable_of_locate hl)).2 rfl
  · rintro rfl hv
    exact step_write_ctrl hd hv hw
  · rintro rfl
    exact step_write_status hd hw

/-- The classes of R53 over the registers of the address map. -/
theorem busyReadReg_classes :
    ∀ x ∈ regTable,
      (x ∈ readWriteRegs ∧ x.1 ≠ 0x04C ∧ busyReadReg x.2 = .value) ∨
      (x.1 ∈ [0x000, 0x004, 0x008, 0x00C] ∧ busyReadReg x.2 = .value) ∨
      (x.1 ∈ [0x010, 0x014] ∧ busyReadReg x.2 = .zero) ∨
      ((x.1 = 0x04C ∨ x ∈ readOnlyRegs ∧ x.1 ∉ [0x000, 0x010, 0x014]) ∧ busyReadReg x.2 = .unspecified) := by
  decide

/-- The classes of R53 over the windows: the input-only ones show their words. -/
theorem busyReadLoc_window (w : Win) (i : Nat) :
    busyReadLoc (.window w i) = if w ∈ [Win.eras, .pa, .pb] then .value else .unspecified := by
  cases w <;> rfl

/-- Settles O8: the offset's location by `offset_cases`, its class by R53, and the read of that class. -/
theorem busyReads : Obligations.BusyReads := by
  unfold Obligations.BusyReads
  intro s off rest hb hd hr hp h h4
  rcases offset_cases (p := s.params) h h4 with ⟨r, hmem⟩ | ⟨d, hdlt, rfl⟩ | ⟨i, hi, rfl⟩ | ⟨w, i, hi, rfl⟩ | hres | hbey
  · have hl := locate_of_mem_regTable s.params hmem
    rcases busyReadReg_classes _ hmem with ⟨hrw, hne, hv⟩ | ⟨hoff, hv⟩ | ⟨hoff, hz⟩ | ⟨hoff, hu⟩
    · exact .inl ⟨r, hrw, hne, step_read_value hd h h4 hl hr fun _ => hv⟩
    · exact .inr (.inl ⟨hoff, r, hmem, step_read_value hd h h4 hl hr fun _ => hv⟩)
    · exact .inr (.inr (.inr (.inr (.inr (.inl ⟨hoff, step_read_zero hd h h4 hl hr hb hz⟩)))))
    · refine .inr (.inr (.inr (.inr (.inr (.inr (.inl ⟨?_, _, step_read_unspecified hd h h4 hl hr hb hu⟩))))))
      exact hoff.imp id fun hro => .inl ⟨r, hro⟩
  · exact .inr (.inr (.inl ⟨d, hdlt, rfl, step_read_value hd h h4 (locate_vreg hp hdlt) hr fun _ => rfl⟩))
  · exact .inr (.inr (.inr (.inl ⟨i, hi, rfl, step_read_value hd h h4 (locate_poly hp hi) hr fun _ => rfl⟩)))
  · have hl := locate_window (w := w) hp hi
    by_cases hw : w ∈ [Win.eras, .pa, .pb]
    · exact .inr (.inr (.inr (.inr (.inl ⟨w, hw, i, hi, rfl,
        step_read_value hd h h4 hl hr fun _ => by rw [busyReadLoc_window, if_pos hw]⟩))))
    · exact .inr (.inr (.inr (.inr (.inr (.inr (.inl ⟨.inr (.inr ⟨w, hw, i, hi, rfl⟩), _,
        step_read_unspecified hd h h4 hl hr hb (by rw [busyReadLoc_window, if_neg hw])⟩))))))
  · exact .inr (.inr (.inr (.inr (.inr (.inr (.inr ⟨.inl hres,
      step_read_zero hd h h4 (locate_reserved _ _ hp h hres) hr hb rfl⟩))))))
  · exact .inr (.inr (.inr (.inr (.inr (.inr (.inr ⟨.inr hbey,
      step_read_zero hd h h4 (locate_beyondMmax _ _ hbey) hr hb rfl⟩))))))

/-! ### The flag words, STATUS, CTRL, WAIT and the reserved offsets -/

theorem getLsbD_bitAt (b : Bool) (i j : Nat) :
    (bitAt b i).getLsbD j = (b && decide (i < 32) && decide (j = i)) := by
  cases b with
  | false => simp [bitAt]
  | true =>
    have hbit : bitAt true i = BitVec.twoPow 32 i := by simp [bitAt, BitVec.twoPow_eq]
    simp [hbit, BitVec.getLsbD_twoPow, eq_comm]

theorem showsStatus_statusWord (t : Status) : ShowsStatus t (statusWord t) := by
  simp only [ShowsStatus, statusWord, BitVec.getLsbD_or, getLsbD_bitAt]
  refine ⟨by simp, by simp, by simp, by simp, by simp, by simp, fun i hi => ?_⟩
  simp (disch := omega) only [decide_eq_false, Bool.and_false, Bool.or_false]

theorem showsDStat_dstatWord (d : DStat) : ShowsDStat d (dstatWord d) := by
  simp only [ShowsDStat, dstatWord, BitVec.getLsbD_or, getLsbD_bitAt]
  refine ⟨by simp, by simp, by simp, by simp, by simp, by simp, by simp, by simp, by simp, by simp, by simp, by simp,
    fun i hi => ?_⟩
  simp (disch := omega) only [decide_eq_false, Bool.and_false, Bool.or_false]

/-- WAIT answers what a read of STATUS answers, and stays the next step while that shows BUSY = 1 (R125). -/
theorem step_wait {s : State} {rest : List BusStep} (hd : completionDue s = false) (hn : s.rstN = true)
    (hs : s.host = .wait :: rest) :
    step s = .next { served s (if s.status.busy then .wait :: rest else rest) with
      resp := .data (statusWord s.status) } := by
  have hread : busRead (served s rest) (.reg .status) =
      { served s rest with resp := .data (statusWord s.status) } := busRead_value fun _ => rfl
  have hn' : (served s rest).rstN = true := hn
  rw [step_host hs hd, hostStep, pollStatus, hn', hread]
  cases hb : s.status.busy with
  | false =>
    have hb' : (served s rest).status.busy = false := hb
    rw [hb']
    rfl
  | true =>
    have hb' : (served s rest).status.busy = true := hb
    rw [hb']
    rfl

/-- Settles O9: the reads show the words bit by bit, the writes act whether or not BUSY = 1, WAIT polls STATUS. -/
theorem statusAndControl : Obligations.StatusAndControl := by
  unfold Obligations.StatusAndControl
  intro s v rest hd
  have hstatus : locate s.params 0x008 = .reg .status := locate_of_mem_regTable _ (by decide)
  have hctrl : locate s.params 0x004 = .reg .ctrl := locate_of_mem_regTable _ (by decide)
  refine ⟨fun hr => ?_, fun hn hs => ?_, fun hw => ?_, fun hr => ?_, fun hw hv => ?_⟩
  · exact ⟨_, step_read_value hd (by omega) (by omega) hstatus hr fun _ => rfl, showsStatus_statusWord _⟩
  · exact ⟨_, showsStatus_statusWord _, step_wait hd hn hs⟩
  · exact step_write_status hd hw
  · refine ⟨_, step_read_value hd (by omega) (by omega) hctrl hr fun _ => rfl, ?_⟩
    show (bitAt s.ie 0).getLsbD 0 = s.ie ∧ ∀ i, 1 ≤ i → (bitAt s.ie 0).getLsbD i = false
    simp only [getLsbD_bitAt]
    refine ⟨by simp, fun i hi => ?_⟩
    rw [decide_eq_false (show i ≠ 0 by omega), Bool.and_false]
  · exact ⟨_, step_write_ctrl hd hv hw, rfl, rfl⟩

/-- Settles O14: the offset is located as reserved; the write is lost while BUSY = 1 and ignored else. -/
theorem reservedOffsets : Obligations.ReservedOffsets := by
  unfold Obligations.ReservedOffsets
  intro s off v rest hd hp h h4 hoff
  have hl : locate s.params off = .reserved :=
    hoff.elim (locate_reserved _ _ hp h) (locate_beyondMmax _ _)
  cases hb : s.status.busy with
  | false =>
    refine ⟨fun hr => step_read_idle hb h h4 hl hr, fun hw => ?_⟩
    rw [step_write_idle hb h h4 hl hw, Bool.or_false]
    rfl
  | true =>
    refine ⟨fun hr => step_read_zero hd h h4 hl hr hb rfl, fun hw => ?_⟩
    rw [step_write_lost hd hb h h4 hl (by decide) (by decide) hw, Bool.or_true]

/-! ### Register readback -/

/-- The registers that hold a whole word: all but the ones whose read is made of flags, a code number or an entry. -/
def holdsWord (r : Reg) : Bool := r ∉ [Reg.ctrl, .status, .errcode, .dstat, .hdata, .gdata]

theorem heldWords_eq (s : State) :
    heldWords s = (regTable.filter fun x => holdsWord x.2).map fun x => (x.1, readReg s x.2) := rfl

theorem writtenStates_eq (s : State) (v : Word) :
    writtenStates s v = (regTable.filter fun x => x ∈ readWriteRegs).map fun x => (x.1, writeReg s v x.2) := rfl

theorem regTable_offsets : ∀ x ∈ regTable, x.1 < 0x10000 ∧ x.1 % 4 = 0 := by decide

theorem readOnlyRegs_subset : ∀ x ∈ readOnlyRegs, x ∈ regTable := by decide

theorem writeReg_readOnly (s : State) (v : Word) : ∀ x ∈ readOnlyRegs, writeReg s v x.2 = s := by
  simp [readOnlyRegs, writeReg]

theorem errCodeWord_errorNumbers : ∀ x ∈ errorNumbers, errCodeWord x.1 = x.2 := by decide

theorem getD_setIfInBounds {n : Nat} (xs : Vector Word n) (d : Nat) (v : Word) {k : Nat} (hk : k < n) :
    (xs.setIfInBounds d v).getD k 0 = if k = d then v else xs.getD k 0 := by
  simp [Vector.getD, hk, Array.getElem_setIfInBounds, eq_comm]

section Idle

variable {s : State} {rest : List BusStep} (hb : s.status.busy = false) {x : Nat × Reg} (hx : x ∈ regTable)

include hb hx

theorem step_readReg_idle (hr : ReadNext s x.1 rest) :
    step s = .next { served s rest with resp := .data (readReg s x.2) } :=
  step_read_idle hb (regTable_offsets x hx).1 (regTable_offsets x hx).2 (locate_of_mem_regTable _ hx) hr

theorem step_writeReg_idle {v : Word} (hw : WriteNext s x.1 v rest) :
    step s = .next { writeReg (served s rest) v x.2 with resp := .written } :=
  step_write_idle hb (regTable_offsets x hx).1 (regTable_offsets x hx).2 (locate_of_mem_regTable _ hx) hw

end Idle

/-- Settles O15: `heldWords` and `writtenStates` are the reads and writes of the registers they name; a VREG or POLY
write sets the one entry. -/
theorem registerReadback : Obligations.RegisterReadback := by
  unfold Obligations.RegisterReadback
  intro s rest hb hp
  have hmmax := mmax_le_of_wf hp
  refine ⟨?_, ?_, fun hr => ?_, fun d hd hr => ?_, fun i hi hr => ?_, ?_, fun v d hd hw => ?_, fun v i hi hw => ?_, ?_⟩
  · intro x hx hr
    rw [heldWords_eq] at hx
    obtain ⟨y, hy, rfl⟩ := List.mem_map.1 hx
    exact step_readReg_idle hb (List.mem_of_mem_filter hy) hr
  · intro x hx hcode hr
    rw [step_readReg_idle hb (x := (0x010, .errcode)) (by decide) hr, ← errCodeWord_errorNumbers x hx, ← hcode]
    rfl
  · exact ⟨_, step_readReg_idle hb (x := (0x018, .dstat)) (by decide) hr, showsDStat_dstatWord _⟩
  · exact step_read_idle hb (by omega) (by omega) (locate_vreg hp hd) hr
  · exact step_read_idle hb (by omega) (by omega) (locate_poly hp hi) hr
  · intro v x hx hw
    rw [writtenStates_eq] at hx
    obtain ⟨y, hy, rfl⟩ := List.mem_map.1 hx
    exact step_writeReg_idle hb (List.mem_of_mem_filter hy) hw
  · exact ⟨_, step_write_idle hb (by omega) (by omega) (locate_vreg hp hd) hw, rfl,
      fun k hk => getD_setIfInBounds _ _ _ hk⟩
  · exact ⟨_, step_write_idle hb (by omega) (by omega) (locate_poly hp hi) hw, rfl,
      fun k hk => getD_setIfInBounds _ _ _ hk⟩
  · intro v x hx hw
    rw [step_writeReg_idle hb (readOnlyRegs_subset x hx) hw, writeReg_readOnly _ _ x hx]

/-! ### Windows -/

theorem hostWritable_eq_false_iff (w : Win) :
    hostWritable w = false ↔ w ∈ [Win.out, Win.pos, Win.pr0, Win.pr1, Win.pr2] := by
  cases w <;> decide

/-- Byte lane k of the word at an offset is the byte k above it (R83). -/
theorem extractLsb'_wordAt (s : State) (a : Nat) {k : Nat} (hk : k < 4) :
    (s.wordAt a).extractLsb' (8 * k) 8 = s.byteAt (a + k) := by
  unfold State.wordAt
  obtain rfl | rfl | rfl | rfl : k = 0 ∨ k = 1 ∨ k = 2 ∨ k = 3 := by omega
  · exact BitVec.extractLsb'_append_eq_right
  · rw [BitVec.extractLsb'_append_eq_of_le (by omega), BitVec.extractLsb'_append_eq_right]
  · rw [BitVec.extractLsb'_append_eq_of_le (by omega), BitVec.extractLsb'_append_eq_of_le (by omega),
      BitVec.extractLsb'_append_eq_right]
  · rw [BitVec.extractLsb'_append_eq_of_le (by omega), BitVec.extractLsb'_append_eq_of_le (by omega),
      BitVec.extractLsb'_append_eq_left]

/-- The bytes after a word write: its lanes in the word, every other byte as before (R83, R86). -/
theorem setWinWord_byteAt {s : State} (h : Memory.wf s.win = true) (w : Win) (i : Nat) (v : Word) (a : Nat) :
    (setWinWord s w i v).byteAt a =
      if winBase w + 4 * i ≤ a ∧ a < winBase w + 4 * i + 4 then v.extractLsb' (8 * (a - (winBase w + 4 * i))) 8
      else s.byteAt a := by
  unfold State.byteAt
  rw [setWinWord_win, Memory.read_writeWord _ h, setWinWord_epoch]
  split <;> rfl

/-- Settles O16: the word's location is the window word, its bytes by the read-after-write law of the memory. -/
theorem windowWrites : Obligations.WindowWrites := by
  unfold Obligations.WindowWrites
  intro s w i rest hb hp hwf hi
  have hl := locate_window (w := w) hp hi
  have hnbuf := nbuf_le_of_wf hp
  obtain ⟨-, hhi, hmod, -⟩ := winOrder_winBase w
  have hoff : winBase w + 4 * i < 0x10000 := by omega
  have halign : (winBase w + 4 * i) % 4 = 0 := by omega
  refine ⟨fun hr => ⟨_, step_read_idle hb hoff halign hl hr, fun k hk => extractLsb'_wordAt s _ hk⟩,
    fun v hw => ⟨fun hrw => ?_, fun hro => ?_⟩⟩
  · have hwr : hostWritable w = true := by rw [← hostWritable_eq_false_iff] at hrw; simpa using hrw
    have hstep := step_write_idle hb hoff halign hl hw
    rw [writeLoc, hwr] at hstep
    have hbyte := setWinWord_byteAt (s := served s rest) hwf w i v
    refine ⟨_, hstep, rfl, fun k hk => ?_, fun a ha => ?_⟩
    · refine (hbyte _).trans ?_
      rw [if_pos (by omega), Nat.add_sub_cancel_left]
    · refine (hbyte _).trans ?_
      rw [if_neg (by omega)]
      rfl
  · rw [step_write_idle hb hoff halign hl hw, writeLoc, (hostWritable_eq_false_iff w).2 hro]
    rfl

end Sys2Proof.Machine
end

section
/-! PROOFS. The matrix read ports (O17): the first rows of the element table are the powers of x, so the last columns of
H are the identity (spec/40_field.md R153, spec/42_code_encoder.md R203). -/

namespace Sys2Proof.Machine

open Sys2Proof

/-- The coefficient vector of x^e for e < m. -/
def unitRow (m e : Nat) : List Nat := tabulate m fun d => if d = e then 1 else 0

/-- A power of x below x^(m-1) times x needs no reduction (R153). -/
theorem nextRow_unitRow {q m e : Nat} (hq : 2 ≤ q) (red : List Nat) (h : e + 1 < m) :
    nextRow q m red (unitRow m e) = unitRow m (e + 1) := by
  have hov : at0 (unitRow m e) (m - 1) = 0 := by
    rw [unitRow, at0_tabulate, if_pos (by omega), if_neg (by omega)]
  refine tabulate_congr fun d hd => ?_
  rw [hov, mulQ, Nat.zero_mul, Nat.zero_mod, addQ, Nat.add_zero, unitRow, at0_tabulate]
  have hone : 1 % q = 1 := Nat.mod_eq_of_lt hq
  cases d with
  | zero => simp
  | succ d =>
    rw [if_neg (by omega), if_pos (by omega), Nat.add_sub_cancel]
    by_cases hde : d = e <;> simp [hde, hone]

/-- From x^e on, the rows of the table are the next powers of x as long as they need no reduction. -/
theorem getD_rowsFrom_unitRow {q m : Nat} (hq : 2 ≤ q) (red : List Nat) (n e i : Nat) (hi : i < n) (hm : e + i < m) :
    (rowsFrom q m red n (unitRow m e)).getD i [] = unitRow m (e + i) := by
  induction n generalizing e i with
  | zero => omega
  | succ n ih =>
    cases i with
    | zero => rfl
    | succ i =>
      rw [rowsFrom, nextRow_unitRow hq red (by omega), List.getD_cons_succ, ih (e + 1) i (by omega) (by omega)]
      congr 1
      omega

/-- The element e + 1 of a built field, e < m, is x^e (R153, R160). -/
theorem FieldOk.vec_succ {s : State} (h : FieldOk s) {e : Nat} (he : e < s.fmB.toNat) :
    vec (fieldView s) (e + 1) = unitRow s.fmB.toNat e := by
  obtain ⟨red, -, -, -, helem, -⟩ := h.tables
  have hpow : s.fmB.toNat < s.fqB.toNat ^ s.fmB.toNat := Nat.lt_pow_self h.two_le
  have hview : (fieldView s).elem = buildTable s.fqB.toNat s.fmB.toNat red := by simp [fieldView, helem]
  rw [vec, hview, buildTable, List.getD_cons_succ]
  have hrow := getD_rowsFrom_unitRow (m := s.fmB.toNat) h.two_le red (s.fqB.toNat ^ s.fmB.toNat - 1) 0 e
    (by omega) (by omega)
  rwa [Nat.zero_add] at hrow

/-- Below the order the power x^e is the element e + 1 (R168). -/
theorem alpha_of_lt_order {F : FieldView} {e : Nat} (h : e < F.order) : alpha F e = e + 1 := by
  rw [alpha, Int.emod_eq_of_lt (by omega) (by omega), Int.toNat_natCast]

/-- The code length is at most the order of the field (R201). -/
theorem CodeOk.length_le_order {s : State} (h : CodeOk s) : s.cnB.toNat ≤ (fieldView s).order :=
  h.bound.trans (Nat.div_le_self _ _)

/-- The entries of H over a built code: the columns of P are the powers x^(m+j), the last columns the identity (R203). -/
theorem CodeOk.matAt_H {s : State} (h : CodeOk s) {i j : Nat} (hi : i < s.cnB.toNat - s.ckB.toNat)
    (hj : j < s.cnB.toNat) :
    matAt (codeView s).H i j =
      if j < s.ckB.toNat then coord s (s.fmB.toNat + j + 1) (s.fmB.toNat - 1 - i)
      else if j = s.ckB.toNat + i then 1 else 0 := by
  obtain ⟨-, hkn, hm⟩ := h.dims
  have horder := h.length_le_order
  have hH : (codeView s).H = parityMatrix (fieldView s) s.cnB.toNat s.ckB.toNat := by simp [codeView, h.parity]
  have hview : (fieldView s).m = s.fmB.toNat := rfl
  rw [hH, parityMatrix, matAt_tabulate, if_pos ⟨hi, hj⟩, columnExponent, hview]
  by_cases hjk : j < s.ckB.toNat
  · rw [if_pos hjk, if_pos hjk, alpha_of_lt_order (by omega)]
    rfl
  · rw [if_neg hjk, if_neg hjk, alpha_of_lt_order (by omega), h.field.vec_succ (by omega), unitRow, at0_tabulate,
      if_pos (by omega)]
    exact if_congr (by omega) rfl rfl

/-- What HDATA shows over a built code (R49). -/
theorem CodeOk.hdataWord_eq {s : State} (h : CodeOk s) :
    hdataWord s = if s.mrow.toNat < s.cnB.toNat - s.ckB.toNat ∧ s.mcol.toNat < s.cnB.toNat then
      toWord (matAt (codeView s).H s.mrow.toNat s.mcol.toNat) else 0 := by
  refine if_congr ?_ rfl rfl
  rw [h.valid, Bool.true_and, Bool.and_eq_true, decide_eq_true_eq, decide_eq_true_eq]
  rfl

/-- What GDATA shows over a built code (R49). -/
theorem CodeOk.gdataWord_eq {s : State} (h : CodeOk s) :
    gdataWord s = if s.mrow.toNat < s.ckB.toNat ∧ s.mcol.toNat < s.cnB.toNat then
      toWord (genAt s.fqB.toNat s.ckB.toNat (codeView s).H s.mrow.toNat s.mcol.toNat) else 0 := by
  refine if_congr ?_ rfl rfl
  rw [h.valid, Bool.true_and, Bool.and_eq_true, decide_eq_true_eq, decide_eq_true_eq]
  rfl

/-- Without a built code both ports show 0. -/
theorem matrixPorts_unbuilt {s : State} (h : s.status.cvalid = false) : hdataWord s = 0 ∧ gdataWord s = 0 := by
  simp [hdataWord, gdataWord, h]

/-- Settles O17: the ports are registers; their words over a built code by the entries of H and of G. -/
theorem matrixPorts : Obligations.MatrixPorts := by
  unfold Obligations.MatrixPorts
  have hdata : ((0x074, .hdata) : Nat × Reg) ∈ regTable := by decide
  have gdata : ((0x078, .gdata) : Nat × Reg) ∈ regTable := by decide
  refine ⟨fun s rest hb hc hr => ?_, fun s rest hb h => ⟨fun hr => ?_, fun hr => ?_⟩⟩
  · rcases hr with hr | hr
    · rw [step_readReg_idle hb hdata hr, readReg, (matrixPorts_unbuilt hc).1]
    · rw [step_readReg_idle hb gdata hr, readReg, (matrixPorts_unbuilt hc).2]
  · rw [step_readReg_idle hb hdata hr, readReg, h.hdataWord_eq]
    by_cases hin : s.mrow.toNat < s.cnB.toNat - s.ckB.toNat ∧ s.mcol.toNat < s.cnB.toNat
    · rw [if_pos hin, if_pos hin, h.matAt_H hin.1 hin.2]
    · rw [if_neg hin, if_neg hin]
      rfl
  · have hstep := step_readReg_idle hb gdata hr
    rw [readReg, h.gdataWord_eq] at hstep
    by_cases hin : s.mrow.toNat < s.ckB.toNat ∧ s.mcol.toNat < s.cnB.toNat
    · rw [if_pos hin] at hstep
      refine ⟨_, hstep, fun _ hcol => ?_, fun _ hcol _ => ?_, by omega⟩
      · rw [genAt, if_pos hcol]
        exact if_congr BitVec.toNat_inj rfl rfl
      · rw [genAt, if_neg (by omega), Nat.add_comm]
        exact ⟨negQ_lt h.field.prime.pos, add_negQ h.field.prime.pos⟩
    · rw [if_neg hin] at hstep
      have := h.dims
      exact ⟨0, hstep, fun _ _ => by omega, fun _ _ _ => by omega, fun _ => rfl⟩

end Sys2Proof.Machine
end

section
/-! PROOFS. What a command may change: the built field and code stay (O25), and the scalar commands write RESULT0 only
(O35). Each meaning is a check phase that ends in one state, concluded. -/

namespace Sys2Proof.Machine

open Sys2Proof

/-! ### What a check phase can answer -/

/-- If the checks and outputs of a command answer a state, it is one with `P`. -/
def Answers (P : State → Prop) (r : Except CmdError State) : Prop := ∀ u, r = .ok u → P u

theorem Answers.pure {P : State → Prop} {u : State} (h : P u) : Answers P (pure u) := by
  rintro _ ⟨⟩
  exact h

/-- A check in front adds no answer. -/
theorem Answers.bind {P : State → Prop} {α : Type} {x : Except CmdError α} {f : α → Except CmdError State}
    (h : ∀ a, Answers P (f a)) : Answers P (x >>= f) := by
  intro u hu
  obtain ⟨a, -, ha⟩ := bind_eq_ok.1 hu
  exact h a u ha

/-- A property of the start state and of every answer, which a completion leaves alone, holds after the command. -/
theorem conclude_keeps {P : State → Prop} {s t : State} {r : Except CmdError State} (h : conclude s r = .next t)
    (hs : P s) (hr : Answers P r) (hc : ∀ c info u, P u → P (complete c info u)) : P t := by
  rcases conclude_cases s r with ⟨u, hu, heq⟩ | ⟨e, -, heq⟩
  · obtain rfl := Host.Outcome.next.inj (heq.symm.trans h)
    exact hc _ _ _ (hr u hu)
  · obtain rfl := Host.Outcome.next.inj (heq.symm.trans h)
    exact hc _ _ _ hs

theorem exec_nop (s : State) : exec .nop s = .next (complete .noError 0 s) := rfl

/-! ### The built field and code -/

/-- The same built field: FVALID, the snapshot and the tables (R40, R50). -/
def SameField (s u : State) : Prop :=
  u.status.fvalid = s.status.fvalid ∧ u.fsize = s.fsize ∧ u.fqB = s.fqB ∧ u.fmB = s.fmB ∧ u.elem = s.elem ∧ u.v2i = s.v2i

/-- The same built code: CVALID, the snapshot and H (R41, R51). -/
def SameCode (s u : State) : Prop :=
  u.status.cvalid = s.status.cvalid ∧ u.cnB = s.cnB ∧ u.ckB = s.ckB ∧ u.cvarB = s.cvarB ∧ u.csB = s.csB ∧
    u.hmat = s.hmat

/-- The same built field and code. -/
def SameBuilt (s u : State) : Prop := SameField s u ∧ SameCode s u

theorem sameBuilt_refl (s : State) : SameBuilt s s := ⟨⟨rfl, rfl, rfl, rfl, rfl, rfl⟩, rfl, rfl, rfl, rfl, rfl, rfl⟩

theorem sameBuilt_complete {s u : State} (c : ErrCode) (info : Word) (h : SameBuilt s u) :
    SameBuilt s (complete c info u) := h

theorem sameBuilt_setWin {s u : State} (h : SameBuilt s u) (w : Win) (vs : List Nat) :
    SameBuilt s (setWin u w vs) := h

theorem sameBuilt_putResult0 {s u : State} (h : SameBuilt s u) (v : Nat) : SameBuilt s (putResult0 u v) := h

theorem sameBuilt_results {s u : State} (h : SameBuilt s u) (r0 r1 : Word) (d : DStat) :
    SameBuilt s { u with result0 := r0, result1 := r1, dstat := d } := h

theorem sameBuilt_putLocator {s u : State} (h : SameBuilt s u) (locator : List Nat) (L : Nat) :
    SameBuilt s (putLocator u locator L) := sameBuilt_setWin h .lambda locator

theorem sameBuilt_putPr0 {s u : State} (h : SameBuilt s u) (p : List Nat) : SameBuilt s (putPr0 u p) :=
  sameBuilt_setWin h .pr0 p

theorem sameBuilt_putPr1 {s u : State} (h : SameBuilt s u) (p : List Nat) : SameBuilt s (putPr1 u p) :=
  sameBuilt_setWin h .pr1 p

theorem sameBuilt_putPr2 {s u : State} (h : SameBuilt s u) (p : List Nat) : SameBuilt s (putPr2 u p) :=
  sameBuilt_setWin h .pr2 p

theorem sameBuilt_putDecoding (s : State) (D : Decoding) (S1 : List Nat) : SameBuilt s (putDecoding s D S1) :=
  sameBuilt_results (sameBuilt_setWin (sameBuilt_setWin (sameBuilt_setWin (sameBuilt_refl s) _ _) _ _) _ _) _ _ _

theorem sameBuilt_bdecClean (s : State) (S : List Nat) : SameBuilt s (bdecClean s S) :=
  sameBuilt_results (sameBuilt_putLocator (sameBuilt_setWin (sameBuilt_setWin (sameBuilt_refl s) _ _) _ _) _ _) _ _ _

theorem sameBuilt_bdecLocated (s : State) (S locator : List Nat) (L : Nat) (P : List Nat) :
    SameBuilt s (bdecLocated s S locator L P) :=
  sameBuilt_results (sameBuilt_putLocator
    (sameBuilt_setWin (sameBuilt_setWin (sameBuilt_setWin (sameBuilt_refl s) _ _) _ _) _ _) _ _) _ _ _

/-- BDEC has three completions with outputs, and none of them writes the built field or code. -/
theorem execBdec_sameBuilt {s t : State} (h : execBdec s = .next t) : SameBuilt s t := by
  unfold execBdec at h
  split at h
  · obtain rfl := Host.Outcome.next.inj h
    exact sameBuilt_refl s
  · simp only at h
    split at h
    · obtain rfl := Host.Outcome.next.inj h
      exact sameBuilt_complete _ _ (sameBuilt_bdecClean _ _)
    · split at h
      · obtain rfl := Host.Outcome.next.inj h
        exact sameBuilt_complete _ _ (sameBuilt_bdecLocated _ _ _ _ _)
      · obtain rfl := Host.Outcome.next.inj h
        exact sameBuilt_complete _ _ (sameBuilt_bdecLocated _ _ _ _ _)

/-- A command whose checks answer a state with the same built field and code leaves both. -/
theorem conclude_sameBuilt {s t : State} {r : Except CmdError State} (h : conclude s r = .next t)
    (hr : Answers (SameBuilt s) r) : SameBuilt s t :=
  conclude_keeps h (sameBuilt_refl s) hr fun c info _ => sameBuilt_complete c info

/-- Every command but FBUILD and CBUILD leaves the built field and code: its outputs are windows and result registers. -/
theorem exec_sameBuilt {i : Instr} {s t : State} (hf : i ≠ .fbuild) (hc : i ≠ .cbuild) (h : exec i s = .next t) :
    SameBuilt s t := by
  have same := sameBuilt_refl s
  cases i
  case fbuild => exact absurd rfl hf
  case cbuild => exact absurd rfl hc
  case nop =>
    obtain rfl := Host.Outcome.next.inj ((exec_nop s).symm.trans h)
    exact same
  case fadd | fsub | fmul => exact conclude_sameBuilt h (.bind fun _ => .pure (sameBuilt_putResult0 same _))
  case fdiv | fpow | finv | fv2i | peval =>
    exact conclude_sameBuilt h (.bind fun _ => .bind fun _ => .pure (sameBuilt_putResult0 same _))
  case fi2v => exact conclude_sameBuilt h (.bind fun _ => .pure same)
  case enc =>
    exact conclude_sameBuilt h (.bind fun _ => .bind fun _ => .pure (sameBuilt_putResult0 (sameBuilt_setWin same _ _) _))
  case synd =>
    exact conclude_sameBuilt h (.bind fun _ => .bind fun _ =>
      .pure (sameBuilt_results (sameBuilt_setWin same _ _) _ _ _))
  case hdec => exact conclude_sameBuilt h (.bind fun _ => .bind fun _ => .pure (sameBuilt_putDecoding s _ _))
  case bsyn => exact conclude_sameBuilt h (.bind fun _ => .pure (sameBuilt_results (sameBuilt_setWin same _ _) _ _ _))
  case bm =>
    exact conclude_sameBuilt h (.bind fun _ => .bind fun _ => .bind fun _ =>
      .pure (sameBuilt_putResult0 (sameBuilt_putLocator same _ _) _))
  case chien =>
    exact conclude_sameBuilt h (.bind fun _ => .bind fun _ => .bind fun _ => .bind fun _ =>
      .pure (sameBuilt_putResult0 (sameBuilt_setWin same _ _) _))
  case bdec => exact execBdec_sameBuilt h
  case padd | psub | pgcd | pderiv => exact conclude_sameBuilt h (.bind fun _ => .pure (sameBuilt_putPr0 same _))
  case pmul => exact conclude_sameBuilt h (.bind fun _ => .bind fun _ => .pure (sameBuilt_putPr0 same _))
  case pdivmod =>
    exact conclude_sameBuilt h (.bind fun _ => .bind fun _ => .pure (sameBuilt_putPr1 (sameBuilt_putPr0 same _) _))
  case pxgcd =>
    exact conclude_sameBuilt h (.bind fun _ =>
      .pure (sameBuilt_putPr2 (sameBuilt_putPr1 (sameBuilt_putPr0 same _) _) _))

/-- CBUILD clears and writes the built code only. -/
theorem exec_cbuild_sameField {s t : State} (h : exec .cbuild s = .next t) : SameField s t :=
  conclude_keeps (P := SameField s) h (sameBuilt_refl s).1
    (.bind fun _ => .bind fun _ => .pure (sameBuilt_refl s).1) fun _ _ _ hu => hu

/-- Settles O25: CBUILD leaves the field, every other command but FBUILD the field and the code. -/
theorem builtStateFrozen : Obligations.BuiltStateFrozen := by
  unfold Obligations.BuiltStateFrozen
  intro i s t h
  refine ⟨fun hf => ?_, fun hf hc => (exec_sameBuilt hf hc h).2⟩
  by_cases hc : i = .cbuild
  · subst hc
    exact exec_cbuild_sameField h
  · exact (exec_sameBuilt hf hc h).1

/-! ### The commands whose output is RESULT0 -/

/-- The state differs from `s` in RESULT0 and in what a completion writes at most. -/
def OnlyResult0 (s u : State) : Prop :=
  u = { s with
    errcode := u.errcode, errinfo := u.errinfo, result0 := u.result0
    status := { s.status with busy := u.status.busy, done := u.status.done, err := u.status.err } }

theorem onlyResult0_complete {s u : State} (c : ErrCode) (info : Word) (h : OnlyResult0 s u) :
    OnlyResult0 s (complete c info u) := by
  unfold OnlyResult0 at h ⊢
  rw [h]
  rfl

/-- The scalar commands write RESULT0 and complete. -/
theorem exec_onlyResult0 {i : Instr} {s t : State}
    (hi : i ∈ [Instr.nop, .fadd, .fsub, .fmul, .fdiv, .fpow, .finv, .fv2i, .peval]) (h : exec i s = .next t) :
    OnlyResult0 s t := by
  simp only [List.mem_cons, List.not_mem_nil, or_false] at hi
  rcases hi with rfl | rfl | rfl | rfl | rfl | rfl | rfl | rfl | rfl
  · obtain rfl := Host.Outcome.next.inj ((exec_nop s).symm.trans h)
    rfl
  all_goals
    refine conclude_keeps h rfl ?_ fun c info _ => onlyResult0_complete c info
    repeat refine Answers.bind fun _ => ?_
    exact Answers.pure rfl

/-- Settles O35: `exec_onlyResult0`, BUSY and DONE as every completion leaves them; NOP writes no RESULT0. -/
theorem scalarFrame : Obligations.ScalarFrame := by
  unfold Obligations.ScalarFrame
  intro i s t hi h
  obtain ⟨c, info, u, hu⟩ := exec_completes i s
  have ht : t = complete c info u := Host.Outcome.next.inj (h.symm.trans hu)
  have honly : OnlyResult0 s t := exec_onlyResult0 hi h
  have hdone : t.status.busy = false ∧ t.status.done = true := by rw [ht]; exact ⟨rfl, rfl⟩
  unfold OnlyResult0 at honly
  rw [hdone.1, hdone.2] at honly
  refine ⟨honly, ?_, fun a => ?_⟩
  · rintro rfl
    obtain rfl := Host.Outcome.next.inj ((exec_nop s).symm.trans h)
    rfl
  · rw [honly]
    rfl

end Sys2Proof.Machine
end

section
/-! PROOFS. What an access may leave behind: a read nothing but its response and a draw (O12), a bus error nothing but
its response, answered exactly to the accesses R82 names (O13). -/

namespace Sys2Proof.Machine

open Sys2Proof

/-! ### A read has no side effect -/

/-- The state differs from `s` in the bus response and in the counter of draws at most. -/
def OnlyResponse (s u : State) : Prop := u = { s with resp := u.resp, draws := u.draws }

/-- A legal read of any location, in each of R53's three classes while BUSY = 1. -/
theorem busRead_onlyResponse (s : State) (l : Loc) : OnlyResponse s (busRead s l) := by
  cases hb : s.status.busy with
  | false =>
    rw [busRead_value (by simp [hb])]
    rfl
  | true =>
    cases hl : busyReadLoc l with
    | value =>
      rw [busRead_value fun _ => hl]
      rfl
    | zero =>
      rw [busRead_zero hb hl]
      rfl
    | unspecified =>
      rw [busRead_unspecified hb hl]
      rfl

/-- A read that answers a next state is unanswered, performed at a location, or answered with a bus error. -/
theorem memRead_cases {s t : State} {addr width : Nat} (h : memRead s addr width = .next t) :
    t = noAnswer s ∨ (∃ l, t = busRead s l) ∨ t = readError s := by
  unfold memRead at h
  split at h
  · split at h
    · exact .inl (Host.Outcome.next.inj h).symm
    · split at h
      · exact .inr (.inl ⟨_, (Host.Outcome.next.inj h).symm⟩)
      · exact .inr (.inr (Host.Outcome.next.inj h).symm)
  · cases h

theorem memRead_onlyResponse {s t : State} {addr width : Nat} (h : memRead s addr width = .next t) :
    OnlyResponse s t := by
  rcases memRead_cases h with rfl | ⟨l, rfl⟩ | rfl
  · rfl
  · exact busRead_onlyResponse s l
  · rfl

/-- Settles O12: the step is the read, from the state with the read taken off the list; `memRead_onlyResponse`. -/
theorem readsHaveNoSideEffects : Obligations.ReadsHaveNoSideEffects := by
  unfold Obligations.ReadsHaveNoSideEffects
  intro s t addr width rest hd hs h
  rw [step_host hs hd] at h
  exact memRead_onlyResponse h

/-! ### Bus errors -/

theorem legalAccess_eq_false {off width : Nat} (h : width ≠ 4 ∨ off % 4 ≠ 0) : legalAccess off width = false := by
  rcases h with h | h <;> simp [legalAccess, h]

/-- A read at a region offset that is not legal is answered with a bus error (R82). -/
theorem memRead_illegal {s : State} {off width : Nat} (hr : s.rstN = true) (ho : off < 0x10000)
    (hbad : width ≠ 4 ∨ off % 4 ≠ 0) : memRead s (s.params.base + off) width = .next (readError s) := by
  simp [memRead, inRegion_offset _ _ ho, hr, legalAccess_eq_false hbad]

/-- So is such a write. -/
theorem memWrite_illegal {s : State} {off width : Nat} (v : Word) (hr : s.rstN = true) (ho : off < 0x10000)
    (hbad : width ≠ 4 ∨ off % 4 ≠ 0) : memWrite s (s.params.base + off) width v = .next (writeError s) := by
  simp [memWrite, inRegion_offset _ _ ho, hr, legalAccess_eq_false hbad]

/-- A legal read answers data, whatever the location. -/
theorem busRead_resp (s : State) (l : Loc) : ∃ x, (busRead s l).resp = .data x := by
  unfold busRead
  split
  · split <;> exact ⟨_, rfl⟩
  · exact ⟨_, rfl⟩

/-- Settles O13: an illegal access by `memRead_illegal` and `memWrite_illegal`, a legal one by `step_read` and
`step_write`. -/
theorem busErrors : Obligations.BusErrors := by
  unfold Obligations.BusErrors
  intro s off width v rest hd hr ho
  have hserved : (served s rest).rstN = true := hr
  refine ⟨fun hs => ⟨fun hbad => ?_, fun hw h4 => ?_⟩, fun hs => ⟨fun hbad => ?_, fun hw h4 => ?_⟩⟩
  · exact ⟨_, (step_host hs hd).trans (memRead_illegal hserved ho hbad)⟩
  · subst hw
    obtain ⟨x, hx⟩ := busRead_resp (served s rest) (locate s.params off)
    exact ⟨_, x, step_read hd ho h4 ⟨hr, hs⟩, hx⟩
  · exact (step_host hs hd).trans (memWrite_illegal v hserved ho hbad)
  · subst hw
    exact ⟨_, step_write hd ho h4 ⟨hr, hs⟩, rfl⟩

end Sys2Proof.Machine
end

section
/-! PROOFS. The command words (spec/30_encoding.md R120, R122, R124): decoding inverts encoding (O1), which words are
legal (O2), words written out (O3), and how an illegal word completes (O5). -/

namespace Sys2Proof

/-- A word decodes to a command exactly when RSV = 0 and R122's table has its opcode for that command. -/
theorem decode_eq_ok_iff {w : Word} {i : Instr} :
    decode w = .ok i ↔ (cmdFields w).rsv = 0 ∧ opcodeTable.lookup (cmdFields w).opc.toNat = some i := by
  unfold decode
  by_cases hrsv : (cmdFields w).rsv = 0
  · rw [if_pos hrsv]
    cases opcodeTable.lookup (cmdFields w).opc.toNat <;> simp [hrsv]
  · rw [if_neg hrsv]
    simp only [reduceCtorEq, hrsv, false_and]

/-- The table has a command under no opcode but the one the second transcription of R122 gives it. -/
theorem eq_opcodeOf_of_lookup {o : BitVec 8} {i : Instr} (h : opcodeTable.lookup o.toNat = some i) :
    o = opcodeOf i := by
  obtain ⟨before, after, htable, -⟩ := List.lookup_eq_some_iff.1 h
  have hmem : (o.toNat, i) ∈ opcodeTable := by simp [htable]
  exact BitVec.eq_of_toNat_eq (opcodeTable_mem _ _ hmem)

theorem decode_encode (i : Instr) : decode (encode i) = .ok i :=
  decode_eq_ok_iff.2 ⟨by simp [encode], by simp [encode, opcodeTable_lookup]⟩

theorem eq_encode_of_decode {w : Word} {i : Instr} (h : decode w = .ok i) : w = encode i := by
  obtain ⟨hrsv, hrow⟩ := decode_eq_ok_iff.1 h
  rw [← word_of_cmdFields w, hrsv, eq_opcodeOf_of_lookup hrow, encode]

/-- Settles O1: `decode_encode`, and `eq_encode_of_decode` for the uniqueness of the word. -/
theorem decodeEncodeAgree : Obligations.DecodeEncodeAgree := by
  unfold Obligations.DecodeEncodeAgree
  exact fun i _ => ⟨decode_encode i, fun _ => eq_encode_of_decode⟩

/-- The table has a row for an opcode exactly when the opcode is one of its first column. -/
theorem exists_lookup_opcodeTable_iff (n : Nat) :
    (∃ i, opcodeTable.lookup n = some i) ↔ n ∈ opcodeTable.map Prod.fst := by
  rw [← Option.isSome_iff_exists, List.lookup_isSome_iff]
  simp

/-- Settles O2: `decode_eq_ok_iff`; the opcodes listed are the table's first column. -/
theorem legalWords : Obligations.LegalWords := by
  unfold Obligations.LegalWords
  intro w
  calc (∃ i, decode w = .ok i)
      ↔ (cmdFields w).rsv = 0 ∧ ∃ i, opcodeTable.lookup (cmdFields w).opc.toNat = some i := by
        simp only [decode_eq_ok_iff, exists_and_left]
    _ ↔ (cmdFields w).rsv = 0 ∧ (cmdFields w).opc.toNat ∈ opcodeTable.map Prod.fst := by
        rw [exists_lookup_opcodeTable_iff]

/-- Settles O3, by decoding the seven words. -/
theorem writtenWordsDecode : Obligations.WrittenWordsDecode := by
  unfold Obligations.WrittenWordsDecode
  decide

end Sys2Proof

namespace Sys2Proof.Machine

open Sys2Proof

theorem completionDue_iff {s : State} :
    completionDue s = true ↔ s.status.busy = true ∧ (s.delay = 0 ∨ s.host = []) := by
  simp [completionDue]

/-- A word that is no command is run as ILLEGAL_COMMAND with the word as detail (R124). -/
theorem runCommand_illegal {s : State} (h : ∀ i, decode s.cmd ≠ .ok i) :
    runCommand s = .next (complete .illegalCommand s.cmd s) := by
  unfold runCommand
  split
  · exact absurd ‹_› (h _)
  · rfl

/-- Settles O5: the due completion runs the illegal word, and `complete` writes what R401 names. -/
theorem illegalWordCompletes : Obligations.IllegalWordCompletes := by
  unfold Obligations.IllegalWordCompletes
  intro s hbusy hdue hillegal
  rw [step_completion (completionDue_iff.2 ⟨hbusy, hdue⟩), runCommand_illegal hillegal]
  rfl

end Sys2Proof.Machine
end

section
/-! PROOFS. The frames of the commands that write more than RESULT0 (spec/30_encoding.md R123): FI2V, FBUILD and CBUILD
(O36), the code commands (O46), the BCH commands (O54) and the polynomial commands (O60). Each command ends in one known
state with NONE, or in its error with the start state; what the two differ in from `s` is read off. Where the known
state is several record updates deep, `simp only` writes them out as one, which `rfl` would compare level by level. -/

namespace Sys2Proof.Machine

open Sys2Proof

/-! ### The one state a command ends in -/

/-- A command whose checks answer no state but `u` completes with `u`, or with its error from the start state. -/
theorem conclude_outcome {s t u : State} {r : Except CmdError State} (h : conclude s r = .next t)
    (hr : Answers (· = u) r) : t = complete .noError 0 u ∨ ∃ e, t = raiseError e s := by
  rcases conclude_cases s r with ⟨v, hv, heq⟩ | ⟨e, -, heq⟩
  · obtain rfl := hr v hv
    exact .inl (Host.Outcome.next.inj (h.symm.trans heq))
  · exact .inr ⟨e, Host.Outcome.next.inj (h.symm.trans heq)⟩

/-! ### Bytes that a command leaves alone -/

/-- The window memory is canonical, and the byte at `a` is the one of `s`. -/
def ByteKept (s : State) (a : Nat) (u : State) : Prop := Memory.wf u.win = true ∧ u.byteAt a = s.byteAt a

theorem byteKept_refl {s : State} (h : Memory.wf s.win = true) (a : Nat) : ByteKept s a s := ⟨h, rfl⟩

/-- Words stored in a window keep every byte outside them (R45). -/
theorem byteKept_setWin {s u : State} {a len : Nat} {w : Win} {vs : List Nat} (h : ByteKept s a u)
    (hlen : vs.length = len) (ha : ¬ inWindow w len a) : ByteKept s a (setWin u w vs) := by
  subst hlen
  exact ⟨setWin_wf u h.1 w vs, (setWin_byteAt_outside u h.1 w vs a ha).trans h.2⟩

theorem byteKept_putResult0 {s u : State} {a : Nat} (h : ByteKept s a u) (v : Nat) : ByteKept s a (putResult0 u v) := h

theorem byteKept_results {s u : State} {a : Nat} (h : ByteKept s a u) (r0 r1 : Word) (d : DStat) :
    ByteKept s a { u with result0 := r0, result1 := r1, dstat := d } := h

/-- A completion stores no word. -/
theorem byteAt_complete {s u : State} {a : Nat} (h : ByteKept s a u) (c : ErrCode) (info : Word) :
    (complete c info u).byteAt a = s.byteAt a := h.2

/-! ### FI2V, FBUILD and CBUILD -/

/-- Settles O36: FBUILD and CBUILD end in their commit or in an error from the cleared state; none stores a
window word. -/
theorem buildFrame : Obligations.BuildFrame := by
  unfold Obligations.BuildFrame
  intro i s t hi h
  simp only [List.mem_cons, List.not_mem_nil, or_false] at hi
  rcases hi with rfl | rfl | rfl
  · rcases conclude_outcome h (.bind fun _ => .pure rfl) with rfl | ⟨e, rfl⟩
    · exact ⟨fun _ => rfl, fun _ => rfl, nofun, nofun⟩
    · exact ⟨fun _ => rfl, fun _ => rfl, nofun, nofun⟩
  · rcases conclude_outcome h (.bind fun _ => .bind fun _ => .pure rfl) with rfl | ⟨e, rfl⟩
    · exact ⟨fun _ => rfl, nofun, nofun, fun _ => by simp only [complete, commitField, clearField, clearCode]⟩
    · exact ⟨fun _ => rfl, nofun, nofun, fun _ => rfl⟩
  · rcases conclude_outcome h (.bind fun _ => .bind fun _ => .pure rfl) with rfl | ⟨e, rfl⟩
    · exact ⟨fun _ => rfl, nofun, fun _ => rfl, nofun⟩
    · exact ⟨fun _ => rfl, nofun, fun _ => rfl, nofun⟩

/-! ### ENC, SYND and HDEC -/

/-- The wire word has W symbols (R200, R210). -/
@[simp] theorem length_wireWord (C : CodeView) (y : List Nat) (p : Nat) : (wireWord C y p).length = C.wireLen := by
  unfold wireWord CodeView.wireLen
  split
  · simp
  · split <;> simp

@[simp] theorem length_syndrome (C : CodeView) (y : List Nat) : (syndrome C y).length = C.r := length_tabulate _ _

/-- The frame of a command that stores one list of words and writes RESULT0. -/
theorem frame_of_setWin_result0 {s t : State} {w : Win} {vs : List Nat} {r0 : Word} {len : Nat}
    (hwf : Memory.wf s.win = true) (hlen : vs.length = len)
    (h : t = complete .noError 0 { setWin s w vs with result0 := r0 } ∨ ∃ e, t = raiseError e s) :
    t = { s with
      errcode := t.errcode, errinfo := t.errinfo, result0 := t.result0, win := t.win
      status := { s.status with busy := false, done := true, err := t.status.err } } ∧
    (∀ a, ¬ inWindow w len a → t.byteAt a = s.byteAt a) ∧
    (t.errcode ≠ .noError → ∀ a, t.byteAt a = s.byteAt a) := by
  rcases h with rfl | ⟨e, rfl⟩
  · exact ⟨rfl, fun a ha => (byteKept_setWin (byteKept_refl hwf a) hlen ha).2, fun hc => absurd rfl hc⟩
  · exact ⟨rfl, fun _ _ => rfl, fun _ _ => rfl⟩

/-- HDEC's outputs keep every byte outside the words of OUT, INFO and SYN (R252). -/
theorem byteKept_putDecoding {s : State} {a : Nat} (hwf : Memory.wf s.win = true) (D : Decoding) (y : List Nat)
    (hout : ¬ inWindow .out (codeView s).wireLen a) (hinfo : ¬ inWindow .info (codeView s).infoLen a)
    (hsyn : ¬ inWindow .syn (codeView s).r a) : ByteKept s a (putDecoding s D (syndrome (codeView s) y)) :=
  byteKept_results (byteKept_setWin (byteKept_setWin (byteKept_setWin (byteKept_refl hwf a)
    (length_wireWord _ _ _) hout) (length_tabulate _ _) hinfo) (length_syndrome _ _) hsyn) _ _ _

/-- Settles O46: each command ends in the state its meaning names, whose stored lists have the lengths W, K' and r. -/
theorem codeFrame : Obligations.CodeFrame := by
  unfold Obligations.CodeFrame
  intro s t hwf
  refine ⟨fun h => ?enc, fun h => ?synd, fun h => ?hdec⟩
  case enc =>
    exact frame_of_setWin_result0 hwf (length_wireWord _ _ _)
      (conclude_outcome h (.bind fun _ => .bind fun _ => .pure rfl))
  case synd =>
    rcases conclude_outcome h (.bind fun _ => .bind fun _ => .pure rfl) with rfl | ⟨e, rfl⟩
    · exact ⟨rfl, fun a ha => (byteKept_setWin (byteKept_refl hwf a) (length_syndrome _ _) ha).2,
        fun hc => absurd rfl hc⟩
    · exact ⟨rfl, fun _ _ => rfl, fun _ _ => rfl⟩
  case hdec =>
    rcases conclude_outcome h (.bind fun _ => .bind fun _ => .pure rfl) with rfl | ⟨e, rfl⟩
    · exact ⟨by simp only [complete, putDecoding, setWin],
        fun a hout hinfo hsyn => byteAt_complete (byteKept_putDecoding hwf _ _ hout hinfo hsyn) _ _,
        fun hc => absurd rfl hc⟩
    · exact ⟨rfl, fun _ _ _ _ => rfl, fun _ _ => rfl⟩

/-! ### BSYN, BM, CHIEN and BDEC -/

@[simp] theorem length_bsyn (F : FieldView) (n : Nat) (r : List Nat) (t b : Nat) : (bsyn F n r t b).length = 2 * t :=
  length_tabulate _ _

@[simp] theorem length_bchIn (s : State) : (bchIn s).length = s.bn.toNat := by simp [bchIn, winNats]

/-- Flipping bits keeps the length of a word (R295 step 6). -/
@[simp] theorem length_flipBits (w P : List Nat) : (flipBits w P).length = w.length := by
  unfold flipBits
  induction P generalizing w with
  | nil => rfl
  | cons p P ih => simp [ih]

/-- A locator stored in LAMBDA keeps the bytes outside it (R284). -/
theorem byteKept_putLocator {s u : State} {a : Nat} {locator : List Nat} {L : Nat} (h : ByteKept s a u)
    (ha : ¬ inWindow .lambda locator.length a) : ByteKept s a (putLocator u locator L) :=
  byteKept_setWin h rfl ha

theorem byteKept_bdecClean {s : State} {a : Nat} {S : List Nat} (hwf : Memory.wf s.win = true)
    (hsyn : ¬ inWindow .syn S.length a) (hout : ¬ inWindow .out s.bn.toNat a) (hlam : ¬ inWindow .lambda 1 a) :
    ByteKept s a (bdecClean s S) :=
  byteKept_results (byteKept_putLocator (locator := [1])
    (byteKept_setWin (byteKept_setWin (byteKept_refl hwf a) rfl hsyn) (length_bchIn s) hout) hlam) _ _ _

theorem byteKept_bdecLocated {s : State} {a : Nat} {S locator P : List Nat} {L : Nat} (hwf : Memory.wf s.win = true)
    (hsyn : ¬ inWindow .syn S.length a) (hout : ¬ inWindow .out s.bn.toNat a)
    (hlam : ¬ inWindow .lambda locator.length a) (hpos : ¬ inWindow .pos P.length a) :
    ByteKept s a (bdecLocated s S locator L P) := by
  have hword : (if decide (s.bt.toNat < P.length) then bchIn s else flipBits (bchIn s) P).length = s.bn.toNat := by
    split <;> simp
  exact byteKept_results (byteKept_putLocator
    (byteKept_setWin (byteKept_setWin (byteKept_setWin (byteKept_refl hwf a) rfl hsyn) rfl hpos) hword hout) hlam) _ _ _

/-- The syndromes BDEC stores (R295 step 1). -/
def bdecSyndromes (s : State) : List Nat := bsyn (fieldView s) s.bn.toNat (bchIn s) s.bt.toNat s.bfcr.toNat

/-- The locator and L that BDEC finds (R295 step 3). -/
def bdecLocator (s : State) : List Nat × Nat := berlekampMassey (fieldView s) (bdecSyndromes s) (2 * s.bt.toNat)

/-- The positions that BDEC locates (R295 step 4). -/
def bdecPositions (s : State) : List Nat := chienPositions (fieldView s) s.bn.toNat (bdecLocator s).1

/-- What BDEC can end in: a check-phase error, the clean word, or the located one with NONE or UNCORRECTABLE
(R295 to R297). -/
theorem execBdec_cases {s t : State} (h : execBdec s = .next t) :
    (∃ e, t = raiseError e s) ∨
    (isZero (bdecSyndromes s) = true ∧ t = complete .noError 0 (bdecClean s (bdecSyndromes s))) ∨
    (isZero (bdecSyndromes s) = false ∧ ∃ c info, (c = .noError ∨ c = .uncorrectable) ∧
      t = complete c info
        (bdecLocated s (bdecSyndromes s) (bdecLocator s).1 (bdecLocator s).2 (bdecPositions s))) := by
  unfold execBdec at h
  split at h
  · exact .inl ⟨_, (Host.Outcome.next.inj h).symm⟩
  · simp only at h
    split at h
    · exact .inr (.inl ⟨‹_›, (Host.Outcome.next.inj h).symm⟩)
    · refine .inr (.inr ⟨Bool.eq_false_iff.2 ‹_›, ?_⟩)
      split at h
      · exact ⟨_, _, .inr rfl, (Host.Outcome.next.inj h).symm⟩
      · exact ⟨_, _, .inl rfl, (Host.Outcome.next.inj h).symm⟩

/-- Settles O54: the completions of BSYN, BM and CHIEN by `conclude_outcome`, those of BDEC by `execBdec_cases`. -/
theorem bchFrame : Obligations.BchFrame := by
  unfold Obligations.BchFrame
  intro s t hwf
  refine ⟨fun h => ?bsyn, fun h => ?bm, fun h => ?chien, fun h => ?bdec⟩
  case bsyn => exact frame_of_setWin_result0 hwf (length_bsyn _ _ _ _ _) (conclude_outcome h (.bind fun _ => .pure rfl))
  case bm =>
    rcases conclude_outcome h (.bind fun _ => .bind fun _ => .bind fun _ => .pure rfl) with rfl | ⟨e, rfl⟩
    · exact ⟨by simp only [complete, putResult0, putLocator, setWin],
        fun a ha => byteAt_complete (byteKept_putResult0 (byteKept_putLocator (byteKept_refl hwf a) ha) _) _ _,
        fun hc => absurd rfl hc⟩
    · exact ⟨rfl, fun _ _ => rfl, fun _ _ => rfl⟩
  case chien =>
    exact frame_of_setWin_result0 hwf rfl
      (conclude_outcome h (.bind fun _ => .bind fun _ => .bind fun _ => .bind fun _ => .pure rfl))
  case bdec =>
    have hS : (bdecSyndromes s).length = 2 * s.bt.toNat := length_bsyn _ _ _ _ _
    rcases execBdec_cases h with ⟨e, rfl⟩ | ⟨hzero, rfl⟩ | ⟨hzero, c, info, hc, rfl⟩
    · exact ⟨rfl, fun _ _ _ _ => rfl, fun _ _ _ => rfl⟩
    · refine ⟨by simp only [complete, bdecClean, putLocator, setWin], fun a hsyn hout hwords => ?_,
        fun hc => absurd rfl hc⟩
      obtain ⟨hlam, -⟩ := hwords
      change ¬ inWindow .lambda (if isZero (bdecSyndromes s) then _ else _) a at hlam
      rw [if_pos hzero] at hlam
      exact byteAt_complete (byteKept_bdecClean hwf (hS ▸ hsyn) hout hlam) _ _
    · refine ⟨by simp only [complete, bdecLocated, putLocator, setWin], fun a hsyn hout hwords => ?_,
        fun hne hnu => (hc.elim hne hnu).elim⟩
      obtain ⟨hlam, hpos⟩ := hwords
      change ¬ inWindow .lambda (if isZero (bdecSyndromes s) then _ else _) a at hlam
      change ¬ inWindow .pos (if isZero (bdecSyndromes s) then _ else _) a at hpos
      rw [hzero, if_neg Bool.false_ne_true] at hlam hpos
      exact byteAt_complete (byteKept_bdecLocated hwf (hS ▸ hsyn) hout hlam hpos) _ _

/-! ### The polynomial commands -/

theorem byteKept_putPr0 {s u : State} {a : Nat} {p : List Nat} (h : ByteKept s a u)
    (ha : ¬ inWindow .pr0 p.length a) : ByteKept s a (putPr0 u p) := byteKept_setWin h rfl ha

theorem byteKept_putPr1 {s u : State} {a : Nat} {p : List Nat} (h : ByteKept s a u)
    (ha : ¬ inWindow .pr1 p.length a) : ByteKept s a (putPr1 u p) := byteKept_setWin h rfl ha

theorem byteKept_putPr2 {s u : State} {a : Nat} {p : List Nat} (h : ByteKept s a u)
    (ha : ¬ inWindow .pr2 p.length a) : ByteKept s a (putPr2 u p) := byteKept_setWin h rfl ha

/-- The frame of a command whose output is one polynomial in PR0. -/
theorem frame_of_putPr0 {s t : State} {p : List Nat} (hwf : Memory.wf s.win = true)
    (h : t = complete .noError 0 (putPr0 s p) ∨ ∃ e, t = raiseError e s) :
    t = { s with
      errcode := t.errcode, errinfo := t.errinfo, win := t.win, pr0len := t.pr0len
      status := { s.status with busy := false, done := true, err := t.status.err } } ∧
    (∀ a, ¬ inWindow .pr0 p.length a → t.byteAt a = s.byteAt a) ∧
    (t.errcode ≠ .noError → t.pr0len = s.pr0len ∧ ∀ a, t.byteAt a = s.byteAt a) := by
  rcases h with rfl | ⟨e, rfl⟩
  · exact ⟨by simp only [complete, putPr0, setWin],
      fun a ha => byteAt_complete (byteKept_putPr0 (byteKept_refl hwf a) ha) _ _, fun hc => absurd rfl hc⟩
  · exact ⟨rfl, fun _ _ => rfl, fun _ => ⟨rfl, fun _ => rfl⟩⟩

/-- Settles O60: five commands end in `putPr0` of their result, PDIVMOD and PXGCD in one and two polynomials more. -/
theorem polynomialFrame : Obligations.PolynomialFrame := by
  unfold Obligations.PolynomialFrame
  intro s t hwf
  refine ⟨fun i hi h => ?pr0, fun h => ?pdivmod, fun h => ?pxgcd⟩
  case pr0 =>
    simp only [List.mem_cons, List.not_mem_nil, or_false] at hi
    rcases hi with rfl | rfl | rfl | rfl | rfl
    -- PMUL checks the length of the product too (R190).
    case inr.inr.inl =>
      exact frame_of_putPr0 hwf (conclude_outcome h (.bind fun _ => .bind fun _ => .pure rfl))
    all_goals exact frame_of_putPr0 hwf (conclude_outcome h (.bind fun _ => .pure rfl))
  case pdivmod =>
    rcases conclude_outcome h (.bind fun _ => .bind fun _ => .pure rfl) with rfl | ⟨e, rfl⟩
    · refine ⟨by simp only [complete, putPr0, putPr1, setWin], fun a h0 h1 => ?_, fun hc => absurd rfl hc⟩
      exact byteAt_complete (byteKept_putPr1 (byteKept_putPr0 (byteKept_refl hwf a) h0) h1) _ _
    · exact ⟨rfl, fun _ _ _ => rfl, fun _ => ⟨rfl, rfl, fun _ => rfl⟩⟩
  case pxgcd =>
    rcases conclude_outcome h (.bind fun _ => .pure rfl) with rfl | ⟨e, rfl⟩
    · refine ⟨by simp only [complete, putPr0, putPr1, putPr2, setWin], fun a h0 h1 h2 => ?_,
        fun hc => absurd rfl hc⟩
      exact byteAt_complete (byteKept_putPr2 (byteKept_putPr1 (byteKept_putPr0 (byteKept_refl hwf a) h0) h1) h2) _ _
    · exact ⟨rfl, fun _ _ _ _ => rfl, fun _ => ⟨rfl, rfl, rfl, fun _ => rfl⟩⟩

end Sys2Proof.Machine
end

section
/-! PROOFS. NOP (O26) and FBUILD: its checks in their order (O27), and the table it builds or the row it reports (O28)
(spec/40_field.md R151 to R155, R170). -/

namespace Sys2Proof.Machine

open Sys2Proof

/-- Settles O26: the completion of NOP writes the error registers and STATUS only. -/
theorem nopRule : Obligations.NopRule := by
  unfold Obligations.NopRule
  exact fun s => exec_nop s

/-! ### The checks of FBUILD -/

/-- The first check of FBUILD fails exactly on a q that is not prime (R151). -/
theorem characteristicCheck_eq (q : Nat) : (decide (q < 2) || !isPrime q) = !decide (Nat.Prime q) := by
  by_cases hq : Nat.Prime q
  · simp [(isPrime_iff q).2 hq, hq, Nat.not_lt.2 hq.two_le]
  · simp [Bool.eq_false_iff.2 (mt (isPrime_iff q).1 hq), hq]

theorem degreeCheck_eq (m mmax : Nat) : (decide (m < 1) || decide (mmax < m)) = !decide (1 ≤ m ∧ m ≤ mmax) := by
  by_cases hm : 1 ≤ m ∧ m ≤ mmax
  · simp [hm, Nat.one_le_iff_ne_zero.1 hm.1]
  · simp only [hm, decide_false, Bool.not_false, Bool.or_eq_true, decide_eq_true_eq]
    omega

theorem at0_modulus {s : State} {i : Nat} (hi : i ≤ s.fm.toNat) :
    at0 (modulus s) i = (s.poly.getD i 0).toNat := by
  rw [modulus, at0_tabulate, if_pos (by omega)]

/-- What FBUILD asks of its configuration up to the coefficients (R151): q prime, a degree the core has, a size it
holds. -/
def FieldSizeOk (s : State) : Prop :=
  Nat.Prime s.fq.toNat ∧ (1 ≤ s.fm.toNat ∧ s.fm.toNat ≤ s.params.mmax) ∧ s.fq.toNat ^ s.fm.toNat ≤ s.params.fsmax

/-- What FBUILD asks of the coefficients (R151): digits, the leading one not 0. -/
def ModulusOk (s : State) : Prop :=
  (∀ i ≤ s.fm.toNat, (s.poly.getD i 0).toNat < s.fq.toNat) ∧ s.poly.getD s.fm.toNat 0 ≠ 0

/-- The two checks of FBUILD on the coefficients. -/
def checkModulus (s : State) : Except CmdError Unit := do
  failAtFirst (s.fm.toNat + 1) (fun i => s.fq.toNat ≤ at0 (modulus s) i) .incorrectPolynomial toWord
  failIf (at0 (modulus s) s.fm.toNat == 0) .incorrectPolynomial s.fm

/-- With size and degree in order the checks of FBUILD are those on the coefficients. -/
theorem checkFieldConfig_eq {s : State} (h : FieldSizeOk s) : checkFieldConfig s = checkModulus s := by
  obtain ⟨hq, hm, hcap⟩ := h
  simp only [checkFieldConfig, characteristicCheck_eq, degreeCheck_eq, hq, hm, decide_true, Bool.not_true, failIf_false,
    ok_bind, decide_eq_false (Nat.not_lt.2 hcap), and_self]
  rfl

theorem leadingZero_iff (s : State) :
    (at0 (modulus s) s.fm.toNat == 0) = true ↔ s.poly.getD s.fm.toNat 0 = 0 := by
  rw [at0_modulus le_rfl, beq_iff_eq, BitVec.toNat_eq]
  rfl

theorem coefficientBad_eq_false_iff {s : State} {i : Nat} (hi : i ≤ s.fm.toNat) :
    decide (s.fq.toNat ≤ at0 (modulus s) i) = false ↔ (s.poly.getD i 0).toNat < s.fq.toNat := by
  rw [at0_modulus hi, decide_eq_false_iff_not, Nat.not_le]

theorem checkModulus_eq_ok {s : State} {u : Unit} : checkModulus s = .ok u ↔ ModulusOk s := by
  unfold checkModulus ModulusOk
  simp only [bind_eq_ok, failAtFirst_eq_ok, failIf_eq_ok, exists_const, Nat.lt_succ_iff, Bool.eq_false_iff, ne_eq,
    leadingZero_iff]
  refine and_congr_left' (forall₂_congr fun i hi => ?_)
  rw [← ne_eq, ← Bool.eq_false_iff, coefficientBad_eq_false_iff hi]

/-- The first coefficient that is not a digit is reported. -/
theorem checkModulus_digit {s : State} {i : Nat} (hi : i ≤ s.fm.toNat) (hbad : s.fq.toNat ≤ (s.poly.getD i 0).toNat)
    (hfirst : ∀ j < i, (s.poly.getD j 0).toNat < s.fq.toNat) :
    checkModulus s = .error { code := .incorrectPolynomial, info := toWord i } := by
  refine bind_eq_error.2 (.inl (failAtFirst_eq_error.2 ⟨i, by omega, ?_, fun j hj => ?_, rfl⟩))
  · rwa [at0_modulus hi, decide_eq_true_iff]
  · exact (coefficientBad_eq_false_iff (by omega)).2 (hfirst j hj)

/-- Then a leading coefficient 0 is reported. -/
theorem checkModulus_leading {s : State} (hdigits : ∀ i ≤ s.fm.toNat, (s.poly.getD i 0).toNat < s.fq.toNat)
    (hzero : s.poly.getD s.fm.toNat 0 = 0) :
    checkModulus s = .error { code := .incorrectPolynomial, info := s.fm } := by
  refine bind_eq_error.2 (.inr ⟨(), failAtFirst_eq_ok.2 fun i hi => ?_, failIf_eq_error.2 ⟨?_, rfl⟩⟩)
  · exact (coefficientBad_eq_false_iff (by omega)).2 (hdigits i (by omega))
  · exact (leadingZero_iff s).2 hzero

/-- The checks of FBUILD pass exactly for a configuration R151 allows. -/
theorem checkFieldConfig_eq_ok {s : State} {u : Unit} :
    checkFieldConfig s = .ok u ↔ FieldSizeOk s ∧ ModulusOk s := by
  constructor
  · intro h
    have hsize : FieldSizeOk s := by
      unfold checkFieldConfig at h
      simp only [bind_eq_ok, failIf_eq_ok, exists_const, characteristicCheck_eq, degreeCheck_eq, Bool.not_eq_false',
        decide_eq_true_eq, decide_eq_false_iff_not, Nat.not_lt] at h
      obtain ⟨hq, hm, hcap, -⟩ := h
      exact ⟨hq, hm, hcap⟩
    exact ⟨hsize, checkModulus_eq_ok.1 (checkFieldConfig_eq hsize ▸ h)⟩
  · rintro ⟨hsize, hmod⟩
    rw [checkFieldConfig_eq hsize]
    exact checkModulus_eq_ok.2 hmod

/-- A check of FBUILD that fails ends it with the field and the code cleared. -/
theorem exec_fbuild_error {s : State} {c : ErrCode} {info : Word}
    (h : checkFieldConfig s = .error { code := c, info := info }) :
    exec .fbuild s = .next (complete c info (clearField s)) := by
  show conclude (clearField s) (checkFieldConfig s >>= _) = _
  rw [h]
  rfl

/-- Settles O27: each clause makes one check fail and those before it pass. -/
theorem fbuildChecks : Obligations.FbuildChecks := by
  unfold Obligations.FbuildChecks
  intro s
  refine ⟨fun hq => exec_fbuild_error ?_, fun hq hm => exec_fbuild_error ?_,
    fun hq hm1 hm2 hcap => exec_fbuild_error ?_, fun hq hm1 hm2 hcap => ⟨fun i hi hbad hfirst => exec_fbuild_error ?_,
    fun hdigits hzero => exec_fbuild_error ?_⟩⟩
  · simp only [checkFieldConfig, characteristicCheck_eq, hq, decide_false, Bool.not_false, failIf_true, error_bind]
  · have hm' : ¬ (1 ≤ s.fm.toNat ∧ s.fm.toNat ≤ s.params.mmax) := by omega
    simp only [checkFieldConfig, characteristicCheck_eq, degreeCheck_eq, hq, hm', decide_true, decide_false,
      Bool.not_true, Bool.not_false, failIf_true, failIf_false, ok_bind, error_bind]
  · simp only [checkFieldConfig, characteristicCheck_eq, degreeCheck_eq, hq, hm1, hm2, hcap, and_self, decide_true,
      Bool.not_true, failIf_true, failIf_false, ok_bind, error_bind]
  · rw [checkFieldConfig_eq ⟨hq, ⟨hm1, hm2⟩, hcap⟩]
    exact checkModulus_digit hi hbad hfirst
  · rw [checkFieldConfig_eq ⟨hq, ⟨hm1, hm2⟩, hcap⟩]
    exact checkModulus_leading hdigits hzero

/-! ### The table FBUILD builds -/

theorem eq_tabulate_of_at0 {m : Nat} {l : List Nat} {f : Nat → Nat} (hl : l.length = m)
    (h : ∀ d < m, at0 l d = f d) : l = tabulate m f := by
  subst hl
  rw [← tabulate_congr h, tabulate_at0]

/-- Each row made by `rowsFrom` is the step of R153 from the one before. -/
theorem getD_rowsFrom_succ {q m : Nat} {red : List Nat} {n : Nat} (row : List Nat) {i : Nat} (hi : i + 1 < n) :
    (rowsFrom q m red n row).getD (i + 1) [] = nextRow q m red ((rowsFrom q m red n row).getD i []) := by
  induction n generalizing row i with
  | zero => omega
  | succ n ih =>
    rw [rowsFrom, List.getD_cons_succ]
    cases i with
    | zero =>
      cases n with
      | zero => omega
      | succ n => rfl
    | succ i => rw [ih _ (by omega), List.getD_cons_succ]

theorem getD_buildTable_one {q m : Nat} {red : List Nat} (h : 1 < q ^ m) :
    (buildTable q m red).getD 1 [] = unitRow m 0 := by
  obtain ⟨n, hn⟩ : ∃ n, q ^ m - 1 = n + 1 := ⟨q ^ m - 2, by omega⟩
  rw [buildTable, hn]
  rfl

/-- From row 1 on, each row of the table is the step of R153 from the one before. -/
theorem getD_buildTable_succ {q m : Nat} {red : List Nat} {i : Nat} (hi : 1 ≤ i) (hlt : i + 1 < q ^ m) :
    (buildTable q m red).getD (i + 1) [] = nextRow q m red ((buildTable q m red).getD i []) := by
  obtain ⟨i, rfl⟩ := Nat.exists_eq_add_of_le' hi
  rw [buildTable, List.getD_cons_succ, List.getD_cons_succ, getD_rowsFrom_succ _ (by omega)]

section Recurrence

variable {q m : Nat} {red : List Nat} {T : List (List Nat)}

/-- A list of rows that follows R153 is the table that is built. -/
theorem eq_buildTable (hsize : 1 < q ^ m) (hlen : T.length = q ^ m) (hrows : ∀ row ∈ T, row.length = m)
    (hzero : ∀ d, matAt T 0 d = 0) (hone : ∀ d < m, matAt T 1 d = if d = 0 then 1 else 0)
    (hstep : ∀ i, 2 ≤ i → i < T.length → ∀ d < m,
      matAt T i d = ((if d = 0 then 0 else matAt T (i - 1) (d - 1)) + matAt T (i - 1) (m - 1) * at0 red d) % q) :
    T = buildTable q m red := by
  have hq : 0 < q := Nat.pos_of_ne_zero fun h => by subst h; rcases m with _ | m <;> simp at hsize
  have hrow : ∀ i < q ^ m, (T.getD i []).length = m := fun i hi => by
    rw [List.getD_eq_getElem _ _ (by omega)]
    exact hrows _ (List.getElem_mem _)
  have hget : ∀ i < q ^ m, T.getD i [] = (buildTable q m red).getD i [] := by
    intro i hi
    induction i with
    | zero => exact eq_tabulate_of_at0 (hrow 0 hi) fun d _ => hzero d
    | succ i ih =>
      rcases Nat.eq_zero_or_pos i with rfl | hpos
      · rw [getD_buildTable_one hsize]
        exact eq_tabulate_of_at0 (hrow 1 hi) hone
      · rw [getD_buildTable_succ hpos hi, ← ih (by omega)]
        refine eq_tabulate_of_at0 (hrow _ hi) fun d hd => ?_
        rw [addQ, mulQ, Nat.add_mod_mod]
        exact hstep (i + 1) (by omega) (by omega) d hd
  have hlen' := length_buildTable (m := m) hq red
  refine List.ext_getElem (hlen.trans hlen'.symm) fun i h1 h2 => ?_
  rw [← List.getD_eq_getElem T [] h1, ← List.getD_eq_getElem _ [] h2, hget i (by omega)]

end Recurrence

/-- `negQ` is the one digit that adds to 0 (R8). -/
theorem eq_negQ {q a r : Nat} (hr : r < q) (h : (a + r) % q = 0) : r = negQ q a := by
  have hq : 0 < q := by omega
  refine Nat.ModEq.eq_of_lt_of_lt (Nat.ModEq.add_left_cancel' a ?_) hr (negQ_lt hq)
  exact h.trans (add_negQ hq).symm

/-- The normalised coefficients of R152 are the digits with `red[i] c[m] + c[i] = 0`. -/
theorem eq_at0_reduction {q m r i : Nat} {c : List Nat} (hq : Nat.Prime q) (hlead0 : at0 c m ≠ 0) (hlead : at0 c m < q)
    (hi : i < m) (hr : r < q) (h : (r * at0 c m + at0 c i) % q = 0) : r = at0 (reduction q m c) i := by
  rw [reduction, at0_tabulate, if_pos hi]
  refine eq_negQ hr ?_
  have hinv : at0 c m * dinv q (at0 c m) ≡ 1 [MOD q] := by
    rw [Nat.ModEq, Nat.mod_eq_of_lt hq.one_lt]
    exact mulQ_dinv hq hlead0 hlead
  have hsum : at0 c i * dinv q (at0 c m) + r ≡ 0 [MOD q] := calc
    at0 c i * dinv q (at0 c m) + r
      = at0 c i * dinv q (at0 c m) + r * 1 := by rw [Nat.mul_one]
    _ ≡ at0 c i * dinv q (at0 c m) + r * (at0 c m * dinv q (at0 c m)) [MOD q] :=
      (hinv.symm.mul_left r).add_left _
    _ = (r * at0 c m + at0 c i) * dinv q (at0 c m) := by ring
    _ ≡ 0 * dinv q (at0 c m) [MOD q] := Nat.ModEq.mul_right _ (h.trans (Nat.zero_mod q).symm)
    _ = 0 := Nat.zero_mul _
  rw [mulQ, Nat.mod_add_mod]
  exact hsum

/-- The distinctness check reports the row at which the rows before it end being distinct. -/
theorem firstRepeatFrom_eq_some {seen l : List (List Nat)} {k i : Nat} (hi : i < l.length)
    (hrep : l.getD i [] ∈ seen ∨ l.getD i [] ∈ l.take i) (hn : (l.take i).Nodup) (hnew : ∀ r ∈ l.take i, r ∉ seen) :
    firstRepeatFrom seen k l = some (k + i) := by
  induction l generalizing seen k i with
  | nil => simp at hi
  | cons r rest ih =>
    unfold firstRepeatFrom
    cases i with
    | zero =>
      have hr : r ∈ seen := by simpa using hrep
      simp [hr]
    | succ i =>
      simp only [List.take_succ_cons, List.mem_cons, forall_eq_or_imp, List.nodup_cons, List.getD_cons_succ]
        at hrep hn hnew
      rw [if_neg (by simpa using hnew.1), ih (by simpa using hi) ?_ hn.2 ?_]
      · congr 1
        omega
      · rcases hrep with h | rfl | h
        · exact .inl (List.mem_cons_of_mem _ h)
        · exact .inl (List.mem_cons_self ..)
        · exact .inr h
      · intro x hx hmem
        rcases List.mem_cons.1 hmem with rfl | hseen
        · exact hn.1 hx
        · exact hnew.2 x hx hseen

theorem checkDistinct_eq_ok {T : List (List Nat)} {u : Unit} : checkDistinct T = .ok u ↔ T.Nodup := by
  rw [← firstRepeat_eq_none]
  unfold checkDistinct
  cases firstRepeat T <;> simp

theorem checkDistinct_repeat {T : List (List Nat)} {i : Nat} (hi : i < T.length) (hrep : T.getD i [] ∈ T.take i)
    (hn : (T.take i).Nodup) : checkDistinct T = .error { code := .fieldConstruction, info := toWord i } := by
  have hfirst : firstRepeat T = some i := by
    rw [firstRepeat, firstRepeatFrom_eq_some hi (.inr hrep) hn (by simp), Nat.zero_add]
  rw [checkDistinct, hfirst]

/-! ### FBUILD past its checks -/

/-- Past its checks FBUILD has the distinctness of the new table to decide. -/
theorem exec_fbuild_checked {s : State} (hsize : FieldSizeOk s) (hmod : ModulusOk s) :
    exec .fbuild s = conclude (clearField s) (do
      checkDistinct (newTable s)
      pure (commitField (clearField s) (newTable s))) := by
  have h : checkFieldConfig s = .ok () := checkFieldConfig_eq_ok.2 ⟨hsize, hmod⟩
  show conclude (clearField s) (checkFieldConfig s >>= _) = _
  rw [h]
  rfl

/-- A legal core has field sizes of 32 bits (log entry 1). -/
theorem toNat_toWord_of_le_fsmax {p : Params} {n : Nat} (hp : p.wf = true) (hn : n ≤ p.fsmax) :
    (toWord n).toNat = n := by
  simp only [Params.wf, Bool.and_eq_true, decide_eq_true_eq] at hp
  rw [BitVec.toNat_ofNat, Nat.mod_eq_of_lt (by omega)]

theorem inverseMap_lookup {T : List (List Nat)} (hn : T.Nodup) {i : Nat} (hi : i < T.length) :
    (inverseMap T).lookup (T.getD i []) = some i := by
  rw [List.getD_eq_getElem _ _ hi, inverseMap, lookup_zipIdx hn, Nat.zero_add]

/-- Settles O28: the given table is the one FBUILD builds, and the distinctness check decides the completion. -/
theorem fbuildBuilds : Obligations.FbuildBuilds := by
  unfold Obligations.FbuildBuilds
  intro s red T hp hq hm1 hm2 hcap hdigits hlead hred hlen hrows hzero hone hstep
  have hlead' : at0 (modulus s) s.fm.toNat ≠ 0 := fun h => hlead ((leadingZero_iff s).1 (beq_iff_eq.2 h))
  have hred' : ∀ d < s.fm.toNat, at0 red d = at0 (reduction s.fq.toNat s.fm.toNat (modulus s)) d := fun d hd => by
    obtain ⟨hlt, hsum⟩ := hred d hd
    rw [← at0_modulus le_rfl, ← at0_modulus hd.le] at hsum
    exact eq_at0_reduction hq hlead' (at0_modulus le_rfl ▸ hdigits _ le_rfl) hd hlt hsum
  have hT : T = newTable s := by
    refine eq_buildTable (Nat.one_lt_pow (by omega) hq.one_lt) hlen hrows hzero hone fun i h2 hi d hd => ?_
    rw [← hred' d hd]
    exact hstep i h2 hi d hd
  subst hT
  have hexec := exec_fbuild_checked ⟨hq, ⟨hm1, hm2⟩, hcap⟩ ⟨hdigits, hlead⟩
  refine ⟨fun hn => ?_, fun i hi hrep hn => ?_⟩
  · rw [checkDistinct_eq_ok (u := ()).2 hn] at hexec
    exact ⟨_, hexec, rfl, rfl, fun i hi => ⟨_, rfl, inverseMap_lookup hn hi⟩, rfl, rfl,
      toNat_toWord_of_le_fsmax hp hcap, rfl, rfl, rfl, rfl, rfl, rfl, rfl⟩
  · rw [checkDistinct_repeat hi hrep hn] at hexec
    exact hexec

end Sys2Proof.Machine
end

section
/-! PROOFS. Every step keeps the invariant (O24): what the core holds decides it, each completion and each write
keeps its parts, and FBUILD and CBUILD build what it asks for. -/

namespace Sys2Proof.Machine

open Sys2Proof

/-! ### What the parts of the invariant depend on -/

theorem fieldView_congr {s u : State} (h : SameField s u) : fieldView u = fieldView s := by
  obtain ⟨-, hsize, hq, hm, helem, hv2i⟩ := h
  simp only [fieldView, hsize, hq, hm, helem, hv2i]

theorem NoField.of_same {s u : State} (h : SameField s u) (hs : NoField s) : NoField u := by
  obtain ⟨hv, hsize, hq, hm, helem, hv2i⟩ := h
  unfold NoField
  rwa [hv, hsize, hq, hm, helem, hv2i]

theorem NoCode.of_same {s u : State} (h : SameCode s u) (hs : NoCode s) : NoCode u := by
  obtain ⟨hv, hn, hk, hvar, hshort, hH⟩ := h
  unfold NoCode
  rwa [hv, hn, hk, hvar, hshort, hH]

theorem FieldOk.of_same {s u : State} (h : SameField s u) (hp : u.params = s.params) (hs : FieldOk s) : FieldOk u := by
  obtain ⟨hv, hsize, hq, hm, helem, hv2i⟩ := h
  constructor
  · rw [hv]; exact hs.valid
  · rw [hq]; exact hs.prime
  · rw [hm, hp]; exact hs.degree
  · rw [hsize, hq, hm]; exact hs.size
  · rw [hsize, hp]; exact hs.capacity
  · rw [hq, hm, helem, hv2i]; exact hs.tables

theorem CodeOk.of_same {s u : State} (h : SameBuilt s u) (hp : u.params = s.params) (hs : CodeOk s) : CodeOk u := by
  obtain ⟨hfield, hv, hn, hk, hvar, hshort, hH⟩ := h
  have hview := fieldView_congr hfield
  obtain ⟨-, hsize, hq, hm, -, -⟩ := id hfield
  constructor
  · exact hs.field.of_same hfield hp
  · rw [hv]; exact hs.valid
  · rw [hn, hk, hm]; exact hs.dims
  · rw [hn, hsize, hq]; exact hs.bound
  · rw [hn, hp]; exact hs.depth
  · rw [hvar]; exact hs.variant
  · rw [hn, hk, hvar, hshort]; exact hs.shortening
  · rw [hn, hk, hH, hview]; exact hs.parity

/-- What the invariant asks of the built field and code. -/
def BuiltOk (s : State) : Prop := (NoField s ∨ FieldOk s) ∧ (NoCode s ∨ CodeOk s)

theorem BuiltOk.of_same {s u : State} (hs : BuiltOk s) (h : SameBuilt s u) (hp : u.params = s.params) : BuiltOk u :=
  ⟨hs.1.imp (.of_same h.1) (.of_same h.1 hp), hs.2.imp (.of_same h.2) (.of_same h hp)⟩

theorem Inv.built {s : State} (h : Inv s) : BuiltOk s := ⟨h.field, h.code⟩

/-- A core whose pin is 1 meets the invariant by the parts that speak of its registers and windows. -/
theorem inv_of_released {u : State} (hr : u.rstN = true) (hp : u.params.wf = true) (hw : Memory.wf u.win = true)
    (hb : BuiltOk u) (he : ErrorsAgree u) : Inv u :=
  ⟨hp, hw, hb.1, hb.2, he, fun h => by rw [hr] at h; cases h⟩

/-- The states differ in the model's own fields of the host and the sequencer at most. -/
def SameCore (s u : State) : Prop :=
  u = { s with delay := u.delay, draws := u.draws, host := u.host, resp := u.resp }

theorem readReg_sameCore {s u : State} (h : SameCore s u) (r : Reg) : readReg u r = readReg s r := by
  unfold SameCore at h
  rw [h]
  cases r <;> rfl

theorem AtResetValues.of_sameCore {s u : State} (h : SameCore s u) (hs : AtResetValues s) : AtResetValues u := by
  have hreg := readReg_sameCore h
  unfold SameCore at h
  obtain ⟨registers, vectors, ⟨hfield, hcode⟩, idle⟩ := hs
  refine ⟨fun r => (hreg r).trans (registers r), ?_, ⟨?_, ?_⟩, ?_⟩
  · rw [h]; exact vectors
  · rw [h]; exact hfield
  · rw [h]; exact hcode
  · rw [h]; exact idle

/-- The invariant speaks of the core only. -/
theorem Inv.of_sameCore {s u : State} (hs : Inv s) (h : SameCore s u) : Inv u := by
  have hheld := AtResetValues.of_sameCore h
  unfold SameCore at h
  have hbuilt : BuiltOk u := hs.built.of_same (by rw [h]; exact sameBuilt_refl s) (by rw [h])
  refine ⟨?_, ?_, hbuilt.1, hbuilt.2, ?_, fun hr => hheld (hs.held ?_)⟩
  · rw [h]; exact hs.params
  · rw [h]; exact hs.memory
  · rw [h]; exact hs.errors
  · rw [h] at hr; exact hr

/-! ### Completions -/

/-- Whatever code and detail it has, a completion leaves the error registers in agreement (R401). -/
theorem errorsAgree_complete (c : ErrCode) (info : Word) (u : State) : ErrorsAgree (complete c info u) := by
  refine ⟨nofun, fun h => if_pos h, fun h => ?_⟩
  simpa using h

/-- What no command touches: the parameters, the pin, the canonical form of the window memory (and the byte at offset 0,
which belongs to no window). -/
def Untouched (s u : State) : Prop := (u.params = s.params ∧ u.rstN = s.rstN) ∧ ByteKept s 0 u

theorem untouched_complete {s u : State} (c : ErrCode) (info : Word) (h : Untouched s u) :
    Untouched s (complete c info u) := h

theorem not_inWindow_zero (w : Win) (len : Nat) : ¬ inWindow w len 0 := by
  have hbase := (winOrder_winBase w).1
  exact fun h => by have := h.1; omega

theorem byteKept_zero_setWin {s u : State} (h : ByteKept s 0 u) (w : Win) (vs : List Nat) :
    ByteKept s 0 (setWin u w vs) := byteKept_setWin h rfl (not_inWindow_zero w _)

theorem execBdec_untouched {s t : State} (hw : Memory.wf s.win = true) (h : execBdec s = .next t) : Untouched s t := by
  rcases execBdec_cases h with ⟨e, rfl⟩ | ⟨-, rfl⟩ | ⟨-, c, info, -, rfl⟩
  · exact ⟨⟨rfl, rfl⟩, byteKept_refl hw 0⟩
  · exact untouched_complete _ _ ⟨by simp [bdecClean, putLocator],
      byteKept_bdecClean hw (not_inWindow_zero _ _) (not_inWindow_zero _ _) (not_inWindow_zero _ _)⟩
  · exact untouched_complete _ _ ⟨by simp [bdecLocated, putLocator],
      byteKept_bdecLocated hw (not_inWindow_zero _ _) (not_inWindow_zero _ _) (not_inWindow_zero _ _)
      (not_inWindow_zero _ _)⟩

theorem conclude_untouched {s s0 t : State} {r : Except CmdError State} (h : conclude s0 r = .next t)
    (hs : Untouched s s0) (hr : Answers (Untouched s) r) : Untouched s t :=
  conclude_keeps h hs hr fun _ _ _ hu => hu

/-- The outputs of a command are registers and the words of windows, stored in canonical form. -/
theorem exec_untouched {i : Instr} {s t : State} (hw : Memory.wf s.win = true) (h : exec i s = .next t) :
    Untouched s t := by
  have kept := byteKept_refl hw 0
  have same : Untouched s s := ⟨⟨rfl, rfl⟩, kept⟩
  have out (w : Win) (vs : List Nat) := byteKept_zero_setWin kept w vs
  have outside (w : Win) (len : Nat) := not_inWindow_zero w len
  cases i
  case nop =>
    obtain rfl := Host.Outcome.next.inj ((exec_nop s).symm.trans h)
    exact same
  case fbuild => exact conclude_untouched h same (.bind fun _ => .bind fun _ => .pure same)
  case cbuild => exact conclude_untouched h same (.bind fun _ => .bind fun _ => .pure same)
  case fadd | fsub | fmul | fi2v => exact conclude_untouched h same (.bind fun _ => .pure same)
  case fdiv | fpow | finv | fv2i | peval => exact conclude_untouched h same (.bind fun _ => .bind fun _ => .pure same)
  case enc =>
    exact conclude_untouched h same (.bind fun _ => .bind fun _ => .pure ⟨⟨rfl, rfl⟩, byteKept_putResult0 (out _ _) _⟩)
  case synd =>
    exact conclude_untouched h same (.bind fun _ => .bind fun _ => .pure ⟨⟨rfl, rfl⟩, byteKept_results (out _ _) _ _ _⟩)
  case hdec =>
    exact conclude_untouched h same (.bind fun _ => .bind fun _ => .pure ⟨by simp [putDecoding],
      byteKept_putDecoding hw _ _ (outside _ _) (outside _ _) (outside _ _)⟩)
  case bsyn => exact conclude_untouched h same (.bind fun _ => .pure ⟨⟨rfl, rfl⟩, byteKept_results (out _ _) _ _ _⟩)
  case bm =>
    exact conclude_untouched h same (.bind fun _ => .bind fun _ => .bind fun _ => .pure ⟨by simp [putLocator],
      byteKept_putResult0 (byteKept_putLocator kept (outside _ _)) _⟩)
  case chien =>
    exact conclude_untouched h same (.bind fun _ => .bind fun _ => .bind fun _ => .bind fun _ =>
      .pure ⟨⟨rfl, rfl⟩, byteKept_putResult0 (out _ _) _⟩)
  case bdec => exact execBdec_untouched hw h
  case padd | psub | pgcd | pderiv =>
    exact conclude_untouched h same (.bind fun _ => .pure ⟨by simp [putPr0], byteKept_putPr0 kept (outside _ _)⟩)
  case pmul =>
    exact conclude_untouched h same (.bind fun _ => .bind fun _ => .pure ⟨by simp [putPr0],
      byteKept_putPr0 kept (outside _ _)⟩)
  case pdivmod =>
    exact conclude_untouched h same (.bind fun _ => .bind fun _ => .pure ⟨by simp [putPr0, putPr1],
      byteKept_putPr1 (byteKept_putPr0 kept (outside _ _)) (outside _ _)⟩)
  case pxgcd =>
    exact conclude_untouched h same (.bind fun _ => .pure ⟨by simp [putPr0, putPr1, putPr2],
      byteKept_putPr2 (byteKept_putPr1 (byteKept_putPr0 kept (outside _ _)) (outside _ _)) (outside _ _)⟩)

/-! ### What FBUILD and CBUILD build -/

theorem builtOk_complete {u : State} (c : ErrCode) (info : Word) (h : BuiltOk u) : BuiltOk (complete c info u) :=
  h.of_same (sameBuilt_refl u) rfl

/-- A configuration that FBUILD accepts, with distinct rows, is committed as a built field. -/
theorem fieldOk_commitField {s : State} (hp : s.params.wf = true) (hsize : FieldSizeOk s) (hn : (newTable s).Nodup) :
    FieldOk (commitField (clearField s) (newTable s)) := by
  obtain ⟨hq, hm, hcap⟩ := hsize
  have hword := toNat_toWord_of_le_fsmax hp hcap
  exact
    { valid := rfl
      prime := hq
      degree := hm
      size := hword
      capacity := hword.trans_le hcap
      tables := ⟨_, length_reduction _ _ _, reduction_lt hq.pos _, hn, rfl, rfl⟩ }

theorem exec_fbuild_builtOk {s t : State} (hp : s.params.wf = true) (h : exec .fbuild s = .next t) : BuiltOk t := by
  refine conclude_keeps (P := BuiltOk) h ⟨.inl (noField_clearField s), .inl (noCode_clearField s)⟩ ?_
    fun c info _ => builtOk_complete c info
  intro u hu
  simp only [bind_eq_ok, checkFieldConfig_eq_ok, checkDistinct_eq_ok, exists_const] at hu
  obtain ⟨⟨hsize, -⟩, hn, ⟨⟩⟩ := hu
  exact ⟨.inr (fieldOk_commitField hp hsize hn), .inl (noCode_clearField s)⟩

/-- What CBUILD asks of its configuration over a built field (R201). -/
structure CodeConfigOk (s : State) : Prop where
  dims : 1 ≤ s.ck.toNat ∧ s.ck.toNat < s.cn.toNat ∧ s.cn.toNat - s.ck.toNat = s.fmB.toNat
  bound : s.cn.toNat ≤ (s.fsize.toNat - 1) / (s.fqB.toNat - 1)
  depth : s.cn.toNat ≤ s.params.nbuf - 1
  variant : s.cvar.toNat ≤ 2
  shortening : s.cvar = 1 → s.cs.toNat < min s.cn.toNat s.ck.toNat

/-- The checks of CBUILD leave only configurations that R201 allows. -/
theorem codeConfigOk_of_check {s : State} {u : Unit} (h : checkCodeConfig s = .ok u) :
    s.status.fvalid = true ∧ CodeConfigOk s := by
  simp only [checkCodeConfig, needField, bind_eq_ok, failIf_eq_ok, exists_const, Bool.not_eq_false',
    Bool.or_eq_false_iff, Bool.and_eq_false_iff, bne_eq_false_iff_eq, beq_eq_false_iff_ne, decide_eq_false_iff_not, Nat.not_lt,
    Nat.not_le] at h
  obtain ⟨hv, ⟨hk, hn⟩, hm, hbound, hdepth, hvar, hshort⟩ := h
  exact ⟨hv, ⟨hk, hn, hm⟩, hbound, hdepth, hvar, fun h1 => hshort.resolve_left (absurd h1)⟩

theorem codeOk_commitCode {s : State} (hf : FieldOk s) (hc : CodeConfigOk s) : CodeOk (commitCode s (newParity s)) where
  field := hf.of_same (sameBuilt_refl s).1 rfl
  valid := rfl
  dims := hc.dims
  bound := hc.bound
  depth := hc.depth
  variant := hc.variant
  shortening := by
    refine ⟨fun h => if_neg h, fun h => ?_⟩
    rw [show (commitCode s (newParity s)).csB = s.cs from if_pos h]
    exact hc.shortening h
  parity := rfl

theorem exec_cbuild_builtOk {s t : State} (hs : BuiltOk s) (h : exec .cbuild s = .next t) : BuiltOk t := by
  have hfield : NoField (clearCode s) ∨ FieldOk (clearCode s) :=
    hs.1.imp (.of_same (sameBuilt_refl s).1) (.of_same (sameBuilt_refl s).1 rfl)
  refine conclude_keeps (P := BuiltOk) h ⟨hfield, .inl (noCode_clearCode s)⟩ ?_ fun c info _ => builtOk_complete c info
  intro u hu
  simp only [bind_eq_ok] at hu
  obtain ⟨_, hcheck, _, -, ⟨⟩⟩ := hu
  obtain ⟨hv, hc⟩ := codeConfigOk_of_check hcheck
  have hf : FieldOk (clearCode s) := hfield.resolve_left fun hno => by rw [hno.1] at hv; cases hv
  have hcode := codeOk_commitCode hf hc
  exact ⟨.inr hcode.field, .inr hcode⟩

theorem exec_builtOk {i : Instr} {s t : State} (hp : s.params.wf = true) (hs : BuiltOk s) (hpar : t.params = s.params)
    (h : exec i s = .next t) : BuiltOk t := by
  by_cases hf : i = .fbuild
  · subst hf
    exact exec_fbuild_builtOk hp h
  · by_cases hc : i = .cbuild
    · subst hc
      exact exec_cbuild_builtOk hs h
    · exact hs.of_same (exec_sameBuilt hf hc h) hpar

/-- A command that runs keeps the invariant; the pin is 1, for BUSY = 0 while it is 0. -/
theorem runCommand_inv {s t : State} (hs : Inv s) (hbusy : s.status.busy = true) (h : runCommand s = .next t) :
    Inv t := by
  have hr : s.rstN = true := by
    by_contra hlow
    have hidle := (hs.held (by simpa using hlow)).idle.1
    rw [hbusy] at hidle
    cases hidle
  unfold runCommand at h
  split at h
  · rename_i i _
    obtain ⟨c, info, u, hu⟩ := exec_completes i s
    obtain ⟨⟨hpar, hpin⟩, hw, -⟩ := exec_untouched hs.memory h
    have hagree : ErrorsAgree t := Host.Outcome.next.inj (hu.symm.trans h) ▸ errorsAgree_complete c info u
    exact inv_of_released (hpin.trans hr) (hpar ▸ hs.params) hw (exec_builtOk hs.params hs.built hpar h) hagree
  · obtain rfl := Host.Outcome.next.inj h
    exact inv_of_released hr hs.params hs.memory (builtOk_complete _ _ hs.built) (errorsAgree_complete _ _ _)

/-! ### Host steps -/

theorem softReset_inv {s : State} (hs : Inv s) : Inv (softReset s) where
  params := hs.params
  memory := hs.memory
  field := .inl (softReset_atResetValues s).unbuilt.1
  code := .inl (softReset_atResetValues s).unbuilt.2
  errors := ⟨nofun, fun _ => rfl, nofun⟩
  held := fun _ => softReset_atResetValues s

theorem hardReset_inv {s : State} (hs : Inv s) : Inv (hardReset s) where
  params := hs.params
  memory := Memory.wf_nil
  field := .inl (hardReset_atResetValues s).unbuilt.1
  code := .inl (hardReset_atResetValues s).unbuilt.2
  errors := ⟨nofun, fun _ => rfl, nofun⟩
  held := fun _ => hardReset_atResetValues s

section Released

variable {s : State} (hs : Inv s) (hr : s.rstN = true)

include hs hr

/-- A write that leaves the built field and code keeps the invariant if the error registers still agree. -/
theorem inv_of_sameBuilt {u : State} (hpin : u.rstN = s.rstN) (hpar : u.params = s.params)
    (hw : Memory.wf u.win = true) (hb : SameBuilt s u) (he : ErrorsAgree u) : Inv u :=
  inv_of_released (hpin.trans hr) (hpar ▸ hs.params) hw (hs.built.of_same hb hpar) he

theorem ackStatus_inv (v : Word) : Inv (ackStatus v s) := by
  obtain ⟨hbusy, hnone, herr⟩ := hs.errors
  refine inv_of_sameBuilt hs hr rfl rfl hs.memory (sameBuilt_refl s) ⟨fun h => ?_, hnone, fun h => herr ?_⟩
  · obtain ⟨hd, he, hclear⟩ := hbusy h
    exact ⟨by simp [ackStatus, statusW1C, hd], by simp [ackStatus, statusW1C, he], hclear⟩
  · exact (Bool.and_eq_true_iff.1 h).1

theorem writeCtrl_inv (v : Word) : Inv (writeCtrl s v) := by
  unfold writeCtrl
  split
  · exact softReset_inv hs
  · exact inv_of_sameBuilt hs hr rfl rfl hs.memory (sameBuilt_refl s) hs.errors

theorem loseWrite_inv : Inv (loseWrite s) :=
  inv_of_sameBuilt hs hr rfl rfl hs.memory (sameBuilt_refl s) hs.errors

/-- An accepted word clears the error registers, and FBUILD and CBUILD what they are to build (R34, R151, R201). -/
theorem acceptCommand_inv (w : Word) : Inv (acceptCommand w s) := by
  have hclear : ∀ u : State, u.status.done = false → u.status.err = false → u.errcode = .noError → u.errinfo = 0 →
      ErrorsAgree u := fun u hd he hc hi => ⟨fun _ => ⟨hd, he, hc, hi⟩, fun _ => hi, fun h => by rw [he] at h; cases h⟩
  unfold acceptCommand startCommand
  rcases onStart_cases w _ with ⟨-, h⟩ | ⟨-, h⟩ | ⟨-, -, h⟩ <;> rw [h]
  · exact inv_of_released hr hs.params hs.memory ⟨.inl (noField_clearField s), .inl (noCode_clearField s)⟩
      (hclear _ rfl rfl rfl rfl)
  · exact inv_of_released hr hs.params hs.memory
      ⟨hs.field.imp (.of_same (sameBuilt_refl s).1) (.of_same (sameBuilt_refl s).1 rfl), .inl (noCode_clearCode s)⟩
      (hclear _ rfl rfl rfl rfl)
  · exact inv_of_sameBuilt hs hr rfl rfl hs.memory (sameBuilt_refl s) (hclear _ rfl rfl rfl rfl)

theorem writeReg_inv (v : Word) (r : Reg) : Inv (writeReg s v r) := by
  cases r
  case ctrl => exact writeCtrl_inv hs hr v
  case status => exact ackStatus_inv hs hr v
  case cmd => exact acceptCommand_inv hs hr v
  all_goals exact inv_of_sameBuilt hs hr rfl rfl hs.memory (sameBuilt_refl s) hs.errors

theorem writeLoc_inv (v : Word) (l : Loc) : Inv (writeLoc s v l) := by
  cases l with
  | reg r => exact writeReg_inv hs hr v r
  | vreg d => exact inv_of_sameBuilt hs hr rfl rfl hs.memory (sameBuilt_refl s) hs.errors
  | poly i => exact inv_of_sameBuilt hs hr rfl rfl hs.memory (sameBuilt_refl s) hs.errors
  | window w i =>
    show Inv (if hostWritable w then setWinWord s w i v else s)
    split
    · exact inv_of_sameBuilt hs hr rfl rfl (setWinWord_wf s hs.memory w i v) (sameBuilt_refl s) hs.errors
    · exact hs
  | reserved => exact hs

theorem busWrite_inv (l : Loc) (v : Word) : Inv (busWrite s l v) := by
  by_cases hc : l = .reg .ctrl
  · rw [hc, busWrite_ctrl]
    exact (writeCtrl_inv hs hr v).of_sameCore rfl
  by_cases ht : l = .reg .status
  · rw [ht, busWrite_status]
    exact (ackStatus_inv hs hr v).of_sameCore rfl
  cases hb : s.status.busy with
  | true =>
    rw [busWrite_lost hb hc ht]
    exact (loseWrite_inv hs hr).of_sameCore rfl
  | false =>
    rw [busWrite_idle hb]
    exact (writeLoc_inv hs hr v l).of_sameCore rfl

end Released

theorem OnlyResponse.sameCore {s u : State} (h : OnlyResponse s u) : SameCore s u := by
  unfold OnlyResponse at h
  unfold SameCore
  rw [h]

/-- A write that answers a next state is unanswered, performed at a location, or answered with a bus error. -/
theorem memWrite_cases {s t : State} {addr width : Nat} {v : Word} (h : memWrite s addr width v = .next t) :
    t = noAnswer s ∨ (s.rstN = true ∧ ∃ l, t = busWrite s l v) ∨ t = writeError s := by
  unfold memWrite at h
  split at h
  · split at h
    · exact .inl (Host.Outcome.next.inj h).symm
    · rename_i hr
      split at h
      · exact .inr (.inl ⟨by simpa using hr, _, (Host.Outcome.next.inj h).symm⟩)
      · exact .inr (.inr (Host.Outcome.next.inj h).symm)
  · cases h

theorem memWrite_inv {s t : State} {addr width : Nat} {v : Word} (hs : Inv s)
    (h : memWrite s addr width v = .next t) : Inv t := by
  rcases memWrite_cases h with rfl | ⟨hr, l, rfl⟩ | rfl
  · exact hs.of_sameCore rfl
  · exact busWrite_inv hs hr l v
  · exact hs.of_sameCore rfl

theorem pollStatus_sameCore (s : State) : SameCore s (pollStatus s) := by
  have hread := (busRead_onlyResponse s (.reg .status)).sameCore
  unfold pollStatus
  split
  · rfl
  · split
    · unfold SameCore at hread ⊢
      rw [hread]
    · exact hread

theorem releaseReset_inv {s : State} (hs : Inv s) : Inv (releaseReset s) :=
  inv_of_released rfl hs.params hs.memory (hs.built.of_same (sameBuilt_refl s) rfl) hs.errors

/-- The host's steps: accesses, polls and the edges of the pin. -/
theorem hostStep_inv {s t : State} {a : BusStep} (hs : Inv s) (h : hostStep s a = .next t) : Inv t := by
  cases a with
  | read addr width => exact hs.of_sameCore (memRead_onlyResponse h).sameCore
  | write addr width v => exact memWrite_inv hs h
  | wait =>
    obtain rfl := Host.Outcome.next.inj h
    exact hs.of_sameCore (pollStatus_sameCore s)
  | resetLow =>
    obtain rfl := Host.Outcome.next.inj h
    unfold assertReset
    split
    · exact hardReset_inv hs
    · exact hs
  | resetHigh =>
    obtain rfl := Host.Outcome.next.inj h
    exact releaseReset_inv hs

/-- Settles O24: a completion by `runCommand_inv`, a host step by `hostStep_inv`. -/
theorem invPreserved : Obligations.InvPreserved := by
  unfold Obligations.InvPreserved
  intro s t hs h
  rcases step_cases h with ⟨hd, hrun⟩ | ⟨-, -, rfl⟩ | ⟨a, rest, -, -, hstep⟩
  · exact runCommand_inv hs (completionDue_iff.1 hd).1 hrun
  · exact hs
  · exact hostStep_inv (hs.of_sameCore (u := served s rest) rfl) hstep

end Sys2Proof.Machine
end

section
/-! PROOFS. The scalar field commands: sums and differences digit by digit (O29), products, quotients and powers by
exponents (O30), the two views of an element (O31) and the errors (O32) (spec/40_field.md R160 to R178). -/

namespace Sys2Proof.Machine

open Sys2Proof

/-! ### The check phase of the scalar commands -/

theorem conclude_bind_ok {α : Type} {s : State} {x : Except CmdError α} {a : α} (h : x = .ok a)
    (f : α → Except CmdError State) : conclude s (x >>= f) = conclude s (f a) := by rw [h, ok_bind]

theorem conclude_bind_error {α : Type} {s : State} {x : Except CmdError α} {c : ErrCode} {info : Word}
    (h : x = .error { code := c, info := info }) (f : α → Except CmdError State) :
    conclude s (x >>= f) = .next (complete c info s) := by
  rw [h]
  rfl

theorem needField_ok {s : State} (hv : s.status.fvalid = true) : needField s = .ok () := by simp [needField, hv]

theorem needElement_eq {s : State} (hv : s.status.fvalid = true) : needElement s = checkOpa s := by
  rw [needElement, needField_ok hv, ok_bind]

theorem needElement_ok {s : State} (hv : s.status.fvalid = true) (ha : s.opa.toNat < s.fsize.toNat) :
    needElement s = .ok () := by
  rw [needElement_eq hv, checkOpa, decide_eq_false (Nat.not_le.2 ha), failIf_false]

theorem needElement_error {s : State} (hv : s.status.fvalid = true) (ha : s.fsize.toNat ≤ s.opa.toNat) :
    needElement s = .error { code := .operandRange, info := 0x00010000 } := by
  rw [needElement_eq hv, checkOpa, decide_eq_true ha, failIf_true]
  rfl

theorem needElements_ok {s : State} (hv : s.status.fvalid = true) (ha : s.opa.toNat < s.fsize.toNat)
    (hb : s.opb.toNat < s.fsize.toNat) : needElements s = .ok () := by
  rw [needElements, needElement_ok hv ha, ok_bind, checkOpb, decide_eq_false (Nat.not_le.2 hb), failIf_false]

theorem needElements_error_opa {s : State} (hv : s.status.fvalid = true) (ha : s.fsize.toNat ≤ s.opa.toNat) :
    needElements s = .error { code := .operandRange, info := 0x00010000 } := by
  rw [needElements, needElement_error hv ha, error_bind]

theorem needElements_error_opb {s : State} (hv : s.status.fvalid = true) (ha : s.opa.toNat < s.fsize.toNat)
    (hb : s.fsize.toNat ≤ s.opb.toNat) : needElements s = .error { code := .operandRange, info := 0x00020000 } := by
  rw [needElements, needElement_ok hv ha, ok_bind, checkOpb, decide_eq_true hb, failIf_true]
  rfl

/-- Settles O32: the check that fails ends the command, the checks before it pass. -/
theorem elementErrors : Obligations.ElementErrors := by
  unfold Obligations.ElementErrors
  intro s hv
  refine ⟨fun ha i hi => ?_, fun ha hb i hi => ?_, fun ha hb => ?_, fun ha hsize => ?_, fun ha hsize he => ?_,
    fun d hd hbad hfirst _ => ?_⟩
  · simp only [List.mem_cons, List.not_mem_nil, or_false] at hi
    rcases hi with rfl | rfl | rfl | rfl | rfl | rfl | rfl
    case inr.inr.inr.inr.inl | inr.inr.inr.inr.inr.inl | inr.inr.inr.inr.inr.inr =>
      exact conclude_bind_error (needElement_error hv ha) _
    all_goals exact conclude_bind_error (needElements_error_opa hv ha) _
  · simp only [List.mem_cons, List.not_mem_nil, or_false] at hi
    rcases hi with rfl | rfl | rfl | rfl <;> exact conclude_bind_error (needElements_error_opb hv ha hb) _
  · have hb' : s.opb.toNat < s.fsize.toNat := by rw [hb]; exact Nat.zero_lt_of_lt ha
    exact (conclude_bind_ok (needElements_ok hv ha hb') _).trans (conclude_bind_error (by simp [hb]) _)
  · have ha' : s.opa.toNat < s.fsize.toNat := by rw [ha]; exact hsize
    exact (conclude_bind_ok (needElement_ok hv ha') _).trans (conclude_bind_error (by simp [ha]) _)
  · have ha' : s.opa.toNat < s.fsize.toNat := by rw [ha]; exact hsize
    exact (conclude_bind_ok (needElement_ok hv ha') _).trans (conclude_bind_error (by simp [ha, exponent, he]) _)
  · have hfail : checkVreg s = .error { code := .operandRange, info := pairInfo 3 d } :=
      failAtFirst_eq_error.2 ⟨d, hd, decide_eq_true hbad, fun j hj => decide_eq_false (Nat.not_le.2 (hfirst j hj)), rfl⟩
    exact (conclude_bind_ok (needField_ok hv) _).trans (conclude_bind_error hfail _)

/-! ### The digits of an element -/

section Built

variable {s : State} (h : FieldOk s)

include h

theorem FieldOk.coord_lt {a d : Nat} (ha : a < s.fsize.toNat) : coord s a d < s.fqB.toNat :=
  at0_lt h.prime.pos (h.isDigits_vec ha) d

/-- The element of a list of digits has those digits. -/
theorem FieldOk.coord_idx_tabulate {f : Nat → Nat} (hf : ∀ d < s.fmB.toNat, f d < s.fqB.toNat) :
    idx (fieldView s) (tabulate s.fmB.toNat f) < s.fsize.toNat ∧
      ∀ d < s.fmB.toNat, coord s (idx (fieldView s) (tabulate s.fmB.toNat f)) d = f d := by
  obtain ⟨hlt, hvec⟩ := h.vec_idx (isDigits_tabulate hf)
  refine ⟨hlt, fun d hd => ?_⟩
  rw [coord, hvec, at0_tabulate, if_pos hd]

theorem FieldOk.gadd_lt (a b : Nat) : gadd (fieldView s) a b < s.fsize.toNat :=
  (h.coord_idx_tabulate fun _ _ => addQ_lt h.prime.pos).1

theorem FieldOk.gsub_lt (a b : Nat) : gsub (fieldView s) a b < s.fsize.toNat :=
  (h.coord_idx_tabulate fun _ _ => subQ_lt h.prime.pos).1

theorem FieldOk.coord_gadd (a b : Nat) {d : Nat} (hd : d < s.fmB.toNat) :
    coord s (gadd (fieldView s) a b) d = (coord s a d + coord s b d) % s.fqB.toNat :=
  (h.coord_idx_tabulate fun _ _ => addQ_lt h.prime.pos).2 d hd

theorem FieldOk.coord_gsub (a b : Nat) {d : Nat} (hd : d < s.fmB.toNat) :
    coord s (gsub (fieldView s) a b) d = subQ s.fqB.toNat (coord s a d) (coord s b d) :=
  (h.coord_idx_tabulate fun _ _ => subQ_lt h.prime.pos).2 d hd

end Built

/-- `subQ` is the digit that added to the subtrahend gives the minuend. -/
theorem subQ_add_mod {q a b : Nat} (ha : a < q) : (subQ q a b + b) % q = a := by
  have hq : 0 < q := by omega
  have hint : (((subQ q a b + b) % q : Nat) : Int) = a := by
    push_cast
    rw [subQ_cast hq, Int.emod_add_emod, sub_add_cancel]
    exact Int.emod_eq_of_lt (by omega) (by omega)
  exact_mod_cast hint

/-- Settles O29: the digits of a sum by `coord_gadd`, those of a difference by `coord_gsub`. -/
theorem faddFsubRule : Obligations.FaddFsubRule := by
  unfold Obligations.FaddFsubRule
  intro s h ha hb
  have hok := needElements_ok h.valid ha hb
  refine ⟨⟨_, h.gadd_lt _ _, conclude_bind_ok hok _, fun d hd => h.coord_gadd _ _ hd⟩,
    ⟨_, h.gsub_lt _ _, conclude_bind_ok hok _, fun d hd => ?_⟩⟩
  rw [h.coord_gsub _ _ hd]
  exact subQ_add_mod (h.coord_lt ha)

/-! ### The exponents of an element -/

theorem alpha_natCast (F : FieldView) (n : Nat) : alpha F (n : Int) = n % F.order + 1 := by
  rw [alpha, ← Int.natCast_emod, Int.toNat_natCast]

theorem alpha_add_order (F : FieldView) (e : Int) : alpha F (e + F.order) = alpha F e := by
  rw [alpha, alpha, Int.add_emod_right]

/-- The exponent of a power of x is its own modulo N (R168). -/
theorem alpha_sub_one {F : FieldView} (hN : 0 < F.order) (e : Int) : ((alpha F e : Nat) : Int) - 1 = e % F.order := by
  have hpos := Int.emod_nonneg e (show (F.order : Int) ≠ 0 by omega)
  rw [alpha]
  omega

theorem FieldOk.order_pos {s : State} (h : FieldOk s) : 0 < (fieldView s).order := by
  have hsize := h.two_le_size
  show 0 < s.fsize.toNat - 1
  omega

theorem gmul_eq (F : FieldView) {a b : Nat} (ha : a ≠ 0) (hb : b ≠ 0) :
    gmul F a b = ((a - 1) + (b - 1)) % F.order + 1 := by
  rw [gmul, if_neg (by simp [ha, hb]), ← alpha_natCast]
  congr 1
  omega

theorem gdiv_eq (F : FieldView) {a b : Nat} (ha : a ≠ 0) (hb : b ≠ 0) (hlt : b - 1 ≤ F.order) :
    gdiv F a b = ((a - 1) + (F.order - (b - 1))) % F.order + 1 := by
  rw [gdiv, if_neg ha, ← alpha_add_order, ← alpha_natCast]
  congr 1
  omega

theorem ginv_eq (F : FieldView) {a : Nat} (ha : a ≠ 0) (hlt : a - 1 ≤ F.order) :
    ginv F a = (F.order - (a - 1)) % F.order + 1 := by
  rw [ginv, ← alpha_add_order, ← alpha_natCast]
  congr 1
  omega

theorem FieldOk.gpow_lt {s : State} (h : FieldOk s) (a : Nat) (e : Int) : gpow (fieldView s) a e < s.fsize.toNat := by
  have hsize := h.two_le_size
  unfold gpow
  split
  · split <;> omega
  · exact (h.alpha_lt _).2

/-- The exponent of a power of a nonzero element is the product of the exponents modulo N (R166). -/
theorem FieldOk.gpow_exponent {s : State} (h : FieldOk s) {a : Nat} (ha : a ≠ 0) (e : Int) :
    1 ≤ gpow (fieldView s) a e ∧
      (((gpow (fieldView s) a e : Nat) : Int) - 1 - ((a : Int) - 1) * e) % (fieldView s).order = 0 := by
  rw [gpow, if_neg ha, alpha_sub_one h.order_pos]
  exact ⟨(h.alpha_lt _).1, Int.emod_eq_emod_iff_emod_sub_eq_zero.1 (Int.emod_emod_of_dvd _ dvd_rfl)⟩

theorem gpow_zero_right (F : FieldView) (a : Nat) : gpow F a 0 = 1 := by
  simp [gpow, alpha]

theorem toNat_ne_zero_iff (w : Word) : w.toNat ≠ 0 ↔ w ≠ 0 := by
  rw [ne_eq, ne_eq, BitVec.toNat_eq]
  rfl

/-- The checks for a zero word pass on any other word. -/
theorem zeroCheck_ok {w : Word} (hw : w ≠ 0) (c : ErrCode) (info : Word) : failIf (w == 0) c info = .ok () := by
  rw [beq_eq_false_iff_ne.2 hw, failIf_false]

/-- Settles O30: the element functions by `gmul_eq`, `gdiv_eq`, `ginv_eq` and `gpow_exponent`. -/
theorem fmulFdivFinvFpowRule : Obligations.FmulFdivFinvFpowRule := by
  unfold Obligations.FmulFdivFinvFpowRule
  intro s h ha
  have horder : s.fsize.toNat - 1 = (fieldView s).order := rfl
  have hsize := h.two_le_size
  have hnat {w : Word} (hw : w ≠ 0) : w.toNat ≠ 0 := (toNat_ne_zero_iff w).2 hw
  rw [horder, show (s.fsize.toNat : Int) - 1 = (fieldView s).order by rw [← horder]; omega]
  refine ⟨fun hb => ?_, fun hb hb0 => ?_, fun ha0 => ?_, fun hneg => ?_⟩
  · refine (conclude_bind_ok (needElements_ok h.valid ha hb) _).trans ?_
    by_cases h0 : s.opa = 0 ∨ s.opb = 0
    · have hprod : gmul (fieldView s) s.opa.toNat s.opb.toNat = 0 :=
        if_pos (h0.imp (by rintro h; simp [h]) (by rintro h; simp [h]))
      rw [if_pos h0, ← hprod]
      rfl
    · obtain ⟨ha0, hb0⟩ := not_or.1 h0
      rw [if_neg h0, ← gmul_eq _ (hnat ha0) (hnat hb0)]
      rfl
  · refine (conclude_bind_ok (needElements_ok h.valid ha hb) _).trans
      ((conclude_bind_ok (zeroCheck_ok hb0 _ _) _).trans ?_)
    by_cases ha0 : s.opa = 0
    · have hquot : gdiv (fieldView s) s.opa.toNat s.opb.toNat = 0 := if_pos (by simp [ha0])
      rw [if_pos ha0, ← hquot]
      rfl
    · rw [if_neg ha0, ← gdiv_eq _ (hnat ha0) (hnat hb0) (by omega)]
      rfl
  · refine (conclude_bind_ok (needElement_ok h.valid ha) _).trans ((conclude_bind_ok (zeroCheck_ok ha0 _ _) _).trans ?_)
    rw [← ginv_eq _ (hnat ha0) (by omega)]
    rfl
  · have hcheck : failIf (s.opa == 0 && decide (exponent s < 0)) .divisionByZero 0 = .ok () := by
      refine failIf_eq_ok.2 (Bool.and_eq_false_imp.2 fun h0 => decide_eq_false (Int.not_lt.2 ?_))
      exact hneg (beq_iff_eq.1 h0)
    refine ⟨_, h.gpow_lt _ _, (conclude_bind_ok (needElement_ok h.valid ha) _).trans (conclude_bind_ok hcheck _),
      fun he => ?_, fun ha0 he => ?_, fun ha0 => h.gpow_exponent (hnat ha0) _⟩
    · rw [exponent, he]
      exact gpow_zero_right _ _
    · have he' : exponent s ≠ 0 := fun h0 => he (BitVec.toInt_inj.1 h0)
      rw [gpow, if_pos (by simp [ha0]), if_neg he']

/-! ### Elements and VREG -/

theorem vregOf_getD (s : State) (v : List Nat) {d : Nat} (hd : d < 16) :
    (vregOf s v).getD d 0 =
      if d < s.fmB.toNat then toWord (at0 v d) else if d < s.params.mmax then 0 else s.vreg.getD d 0 := by
  simp [vregOf, Vector.getD, hd]

/-- Settles O31: FI2V writes `vregOf` of the element's vector; a VREG of digits is the vector of one element. -/
theorem fi2vFv2iRule : Obligations.Fi2vFv2iRule := by
  unfold Obligations.Fi2vFv2iRule
  intro s h hp
  have hm := h.degree.2
  have hmmax := mmax_le_of_wf hp
  refine ⟨fun ha => ⟨_, conclude_bind_ok (needElement_ok h.valid ha) _, rfl, fun d hd => ?_, fun d hd hlt => ?_⟩,
    fun hdig => ?_⟩
  · have hdigit : coord s s.opa.toNat d < 2 ^ 32 := (h.coord_lt ha).trans s.fqB.isLt
    refine (congrArg BitVec.toNat (vregOf_getD s _ (by omega))).trans ?_
    rw [if_pos hd, BitVec.toNat_ofNat]
    exact Nat.mod_eq_of_lt hdigit
  · refine (vregOf_getD s _ (by omega)).trans ?_
    rw [if_neg (by omega), if_pos hlt]
  · have hcheck : checkVreg s = .ok () :=
      failAtFirst_eq_ok.2 fun d hd => decide_eq_false (Nat.not_le.2 (hdig d hd))
    obtain ⟨hlt, hcoord⟩ := h.coord_idx_tabulate hdig
    exact ⟨_, hlt, (conclude_bind_ok (needField_ok h.valid) _).trans (conclude_bind_ok hcheck _), hcoord⟩

end Sys2Proof.Machine
end

section
/-! PROOFS. The laws of the built field (spec/40_field.md R181): the group laws (O33), by digits for the sum and by
exponents for the product, and the distributive law (O34), by the additive map of multiplying by x, whose powers
are the products. -/

namespace Sys2Proof.Machine

open Sys2Proof

/-! ### Digits modulo q -/

theorem subQ_eq_add_subQ_zero {q x y : Nat} (hq : 0 < q) : subQ q x y = (x + subQ q 0 y) % q := by
  have hint : ((subQ q x y : Nat) : Int) = ((x + subQ q 0 y) % q : Nat) := by
    push_cast
    rw [subQ_cast hq, subQ_cast hq, Int.add_emod_emod, Nat.cast_zero, zero_sub, sub_eq_add_neg]
  exact_mod_cast hint

theorem subQ_two {x y : Nat} : subQ 2 x y = (x + y) % 2 := by
  unfold subQ
  omega

/-- One digit of R153's step is additive. -/
theorem stepDigit_add (q x y u v r : Nat) :
    ((x + y) % q + (u + v) % q * r) % q = ((x + u * r) % q + (y + v * r) % q) % q := calc
  ((x + y) % q + (u + v) % q * r) % q
    = ((x + y) + (u + v) * r) % q := (Nat.mod_modEq _ _).add ((Nat.mod_modEq _ _).mul_right r)
  _ = ((x + u * r) + (y + v * r)) % q := by ring_nf
  _ = ((x + u * r) % q + (y + v * r) % q) % q := Nat.add_mod _ _ _

/-! ### The additive group -/

section Additive

variable {s : State} (h : FieldOk s)

include h

/-- An element is determined by its digits (R161). -/
theorem FieldOk.eq_of_coord_eq {a b : Nat} (ha : a < s.fsize.toNat) (hb : b < s.fsize.toNat)
    (heq : ∀ d < s.fmB.toNat, coord s a d = coord s b d) : a = b := by
  have hvec : vec (fieldView s) a = vec (fieldView s) b := by
    rw [eq_tabulate_of_at0 (h.isDigits_vec ha).1 heq]
    exact (eq_tabulate_of_at0 (h.isDigits_vec hb).1 fun _ _ => rfl).symm
  rw [← h.idx_vec ha, hvec, h.idx_vec hb]

theorem FieldOk.coord_zero (d : Nat) : coord s 0 d = 0 := by
  obtain ⟨red, -, -, -, helem, -⟩ := h.tables
  have hvec : vec (fieldView s) 0 = tabulate s.fmB.toNat fun _ => 0 := by simp [vec, fieldView, helem, buildTable]
  rw [coord, hvec, at0_tabulate, ite_self]

theorem FieldOk.zero_lt : 0 < s.fsize.toNat := Nat.zero_lt_of_lt h.two_le_size

theorem FieldOk.gadd_comm (a b : Nat) : gadd (fieldView s) a b = gadd (fieldView s) b a := by
  refine h.eq_of_coord_eq (h.gadd_lt _ _) (h.gadd_lt _ _) fun d hd => ?_
  rw [h.coord_gadd _ _ hd, h.coord_gadd _ _ hd, Nat.add_comm]

theorem FieldOk.gadd_assoc (a b c : Nat) :
    gadd (fieldView s) (gadd (fieldView s) a b) c = gadd (fieldView s) a (gadd (fieldView s) b c) := by
  refine h.eq_of_coord_eq (h.gadd_lt _ _) (h.gadd_lt _ _) fun d hd => ?_
  rw [h.coord_gadd _ _ hd, h.coord_gadd _ _ hd, h.coord_gadd _ _ hd, h.coord_gadd _ _ hd, Nat.mod_add_mod,
    Nat.add_mod_mod, Nat.add_assoc]

theorem FieldOk.gadd_zero {a : Nat} (ha : a < s.fsize.toNat) : gadd (fieldView s) a 0 = a := by
  refine h.eq_of_coord_eq (h.gadd_lt _ _) ha fun d hd => ?_
  rw [h.coord_gadd _ _ hd, h.coord_zero, Nat.add_zero, Nat.mod_eq_of_lt (h.coord_lt ha)]

theorem FieldOk.gsub_self (a : Nat) : gsub (fieldView s) a a = 0 := by
  refine h.eq_of_coord_eq (h.gsub_lt _ _) h.zero_lt fun d hd => ?_
  rw [h.coord_gsub _ _ hd, h.coord_zero, subQ, sub_self, Int.zero_emod, Int.toNat_zero]

theorem FieldOk.gsub_eq_gadd_neg (a b : Nat) :
    gsub (fieldView s) a b = gadd (fieldView s) a (gsub (fieldView s) 0 b) := by
  refine h.eq_of_coord_eq (h.gsub_lt _ _) (h.gadd_lt _ _) fun d hd => ?_
  rw [h.coord_gsub _ _ hd, h.coord_gadd _ _ hd, h.coord_gsub _ _ hd, h.coord_zero]
  exact subQ_eq_add_subQ_zero h.prime.pos

/-- In characteristic 2 subtraction is addition. -/
theorem FieldOk.gsub_eq_gadd_of_two (hq : s.fqB = 2) (a b : Nat) :
    gsub (fieldView s) a b = gadd (fieldView s) a b := by
  refine h.eq_of_coord_eq (h.gsub_lt _ _) (h.gadd_lt _ _) fun d hd => ?_
  rw [h.coord_gsub _ _ hd, h.coord_gadd _ _ hd, hq]
  exact subQ_two

theorem FieldOk.gsub_gadd_cancel {a : Nat} (ha : a < s.fsize.toNat) (b : Nat) :
    gadd (fieldView s) (gsub (fieldView s) a b) b = a := by
  refine h.eq_of_coord_eq (h.gadd_lt _ _) ha fun d hd => ?_
  rw [h.coord_gadd _ _ hd, h.coord_gsub _ _ hd, subQ_add_mod (h.coord_lt ha)]

theorem FieldOk.gadd_right_cancel {a b c : Nat} (ha : a < s.fsize.toNat) (hb : b < s.fsize.toNat)
    (heq : gadd (fieldView s) a c = gadd (fieldView s) b c) : a = b := by
  refine h.eq_of_coord_eq ha hb fun d hd => ?_
  have hsum := congrArg (coord s · d) heq
  simp only [h.coord_gadd _ _ hd] at hsum
  exact (Nat.ModEq.add_right_cancel' _ hsum).eq_of_lt_of_lt (h.coord_lt ha) (h.coord_lt hb)

end Additive

/-! ### The multiplicative group -/

theorem gmul_zero_left (F : FieldView) (b : Nat) : gmul F 0 b = 0 := if_pos (.inl rfl)

theorem gmul_zero_right (F : FieldView) (a : Nat) : gmul F a 0 = 0 := if_pos (.inr rfl)

theorem alpha_ne_zero (F : FieldView) (e : Int) : alpha F e ≠ 0 := Nat.succ_ne_zero _

theorem alpha_congr {F : FieldView} {e f : Int} (hef : e % F.order = f % F.order) : alpha F e = alpha F f := by
  rw [alpha, alpha, hef]

theorem alpha_zero (F : FieldView) : alpha F 0 = 1 := by rw [alpha, Int.zero_emod, Int.toNat_zero]

theorem gmul_comm (F : FieldView) (a b : Nat) : gmul F a b = gmul F b a := by
  rw [gmul, gmul, Int.add_comm]
  exact if_congr or_comm rfl rfl

section Powers

variable {F : FieldView} (hN : 0 < F.order)

include hN

/-- Every nonzero element is the power of x whose exponent is one less (R168). -/
theorem eq_alpha_of_ne_zero {a : Nat} (ha : a ≠ 0) (hlt : a ≤ F.order) : ∃ e : Int, a = alpha F e :=
  ⟨(a - 1 : Nat), by rw [alpha_of_lt_order (by omega)]; omega⟩

theorem gmul_alpha (e f : Int) : gmul F (alpha F e) (alpha F f) = alpha F (e + f) := by
  rw [gmul, if_neg (by simp [alpha_ne_zero]), alpha_sub_one hN, alpha_sub_one hN]
  exact alpha_congr (Int.add_emod _ _ _).symm

theorem gdiv_alpha (e f : Int) : gdiv F (alpha F e) (alpha F f) = alpha F (e - f) := by
  rw [gdiv, if_neg (alpha_ne_zero _ _), alpha_sub_one hN, alpha_sub_one hN]
  exact alpha_congr (Int.sub_emod _ _ _).symm

theorem ginv_alpha (e : Int) : ginv F (alpha F e) = alpha F (-e) := by
  rw [ginv, alpha_sub_one hN]
  exact alpha_congr (Int.mod_modEq e F.order).neg

theorem gmul_assoc {a b c : Nat} (ha : a ≤ F.order) (hb : b ≤ F.order) (hc : c ≤ F.order) :
    gmul F (gmul F a b) c = gmul F a (gmul F b c) := by
  rcases eq_or_ne a 0 with rfl | ha0
  · rw [gmul_zero_left, gmul_zero_left, gmul_zero_left]
  rcases eq_or_ne b 0 with rfl | hb0
  · rw [gmul_zero_right, gmul_zero_left, gmul_zero_right]
  rcases eq_or_ne c 0 with rfl | hc0
  · rw [gmul_zero_right, gmul_zero_right, gmul_zero_right]
  obtain ⟨e, rfl⟩ := eq_alpha_of_ne_zero hN ha0 ha
  obtain ⟨f, rfl⟩ := eq_alpha_of_ne_zero hN hb0 hb
  obtain ⟨g, rfl⟩ := eq_alpha_of_ne_zero hN hc0 hc
  rw [gmul_alpha hN, gmul_alpha hN, gmul_alpha hN, gmul_alpha hN, Int.add_assoc]

theorem gmul_one {a : Nat} (ha : a ≤ F.order) : gmul F a 1 = a := by
  rcases eq_or_ne a 0 with rfl | ha0
  · exact gmul_zero_left F 1
  obtain ⟨e, rfl⟩ := eq_alpha_of_ne_zero hN ha0 ha
  rw [← alpha_zero F, gmul_alpha hN, Int.add_zero]

theorem gmul_ginv {a : Nat} (ha0 : a ≠ 0) (ha : a ≤ F.order) : gmul F a (ginv F a) = 1 := by
  obtain ⟨e, rfl⟩ := eq_alpha_of_ne_zero hN ha0 ha
  rw [ginv_alpha hN, gmul_alpha hN, Int.add_right_neg, alpha_zero]

theorem gmul_gdiv {a b : Nat} (ha : a ≤ F.order) (hb0 : b ≠ 0) (hb : b ≤ F.order) : gmul F (gdiv F a b) b = a := by
  rcases eq_or_ne a 0 with rfl | ha0
  · exact gmul_zero_left F b
  obtain ⟨e, rfl⟩ := eq_alpha_of_ne_zero hN ha0 ha
  obtain ⟨f, rfl⟩ := eq_alpha_of_ne_zero hN hb0 hb
  rw [gdiv_alpha hN, gmul_alpha hN, Int.sub_add_cancel]

end Powers

/-- Settles O33: the laws of the sum digit by digit, those of the product by exponents. -/
theorem fieldGroupLaws : Obligations.FieldGroupLaws := by
  unfold Obligations.FieldGroupLaws
  intro s a b c h ha hb hc
  have hN := h.order_pos
  have horder {e : Nat} (he : e < s.fsize.toNat) : e ≤ (fieldView s).order := Nat.le_sub_one_of_lt he
  exact ⟨h.gadd_comm a b, h.gadd_assoc a b c, h.gadd_zero ha, h.gsub_self a, h.gsub_eq_gadd_neg a b, gmul_comm _ a b,
    gmul_assoc hN (horder ha) (horder hb) (horder hc), gmul_one hN (horder ha),
    fun ha0 => gmul_ginv hN ha0 (horder ha), fun hb0 => gmul_gdiv hN (horder ha) hb0 (horder hb),
    fun hq => h.gsub_eq_gadd_of_two hq a b⟩

/-! ### Times x -/

/-- The element whose vector R153's step makes of that of `a`: the product of `a` and x, reduced by the modulus. -/
def timesX (s : State) (red : List Nat) (a : Nat) : Nat :=
  idx (fieldView s) (nextRow s.fqB.toNat s.fmB.toNat red (vec (fieldView s) a))

section TimesX

variable {s : State} (h : FieldOk s)

include h

theorem FieldOk.timesX_lt (red : List Nat) (a : Nat) : timesX s red a < s.fsize.toNat :=
  (h.vec_idx (isDigits_nextRow h.prime.pos red _)).1

theorem FieldOk.coord_timesX (red : List Nat) (a : Nat) {d : Nat} (hd : d < s.fmB.toNat) :
    coord s (timesX s red a) d =
      ((if d = 0 then 0 else coord s a (d - 1)) + coord s a (s.fmB.toNat - 1) * at0 red d) % s.fqB.toNat := by
  rw [coord, timesX, (h.vec_idx (isDigits_nextRow h.prime.pos red _)).2, nextRow, at0_tabulate, if_pos hd, addQ, mulQ,
    Nat.add_mod_mod]
  rfl

/-- Times x is additive. -/
theorem FieldOk.timesX_gadd (red : List Nat) (a b : Nat) :
    timesX s red (gadd (fieldView s) a b) = gadd (fieldView s) (timesX s red a) (timesX s red b) := by
  refine h.eq_of_coord_eq (h.timesX_lt _ _) (h.gadd_lt _ _) fun d hd => ?_
  have hshift : (if d = 0 then 0 else coord s (gadd (fieldView s) a b) (d - 1)) =
      ((if d = 0 then 0 else coord s a (d - 1)) + (if d = 0 then 0 else coord s b (d - 1))) % s.fqB.toNat := by
    split
    · exact (Nat.zero_mod _).symm
    · exact h.coord_gadd _ _ (by omega)
  rw [h.coord_gadd _ _ hd, h.coord_timesX _ _ hd, h.coord_timesX _ _ hd, h.coord_timesX _ _ hd, hshift,
    h.coord_gadd _ _ (by omega)]
  exact stepDigit_add _ _ _ _ _ _

theorem FieldOk.timesX_zero (red : List Nat) : timesX s red 0 = 0 := by
  refine h.eq_of_coord_eq (h.timesX_lt _ _) h.zero_lt fun d hd => ?_
  rw [h.coord_timesX _ _ hd]
  simp [h.coord_zero]

variable {red : List Nat} (helem : s.elem = some (buildTable s.fqB.toNat s.fmB.toNat red))

include helem

/-- Up to the last element, x times a power is the next element (R153). -/
theorem FieldOk.timesX_of_lt {a : Nat} (ha : a ≠ 0) (hlt : a + 1 < s.fsize.toNat) : timesX s red a = a + 1 := by
  have hvec (i : Nat) : vec (fieldView s) i = (buildTable s.fqB.toNat s.fmB.toNat red).getD i [] := by
    simp [vec, fieldView, helem]
  rw [timesX, hvec, ← getD_buildTable_succ (Nat.pos_of_ne_zero ha) (h.size ▸ hlt), ← hvec]
  exact h.idx_vec hlt

/-- With more than two elements, times x has the kernel 0: else it would send the last element to 0, and then 1 plus the
last element, which is another element than 1, to x. -/
theorem FieldOk.eq_zero_of_timesX (hN : 2 < s.fsize.toNat) {a : Nat} (ha : a < s.fsize.toNat)
    (h0 : timesX s red a = 0) : a = 0 := by
  by_contra hne
  have hlast : a + 1 = s.fsize.toNat := by
    by_contra hlt
    have hnext := h.timesX_of_lt helem hne (by omega)
    omega
  have hone : timesX s red 1 = 2 := h.timesX_of_lt helem (by omega) hN
  have hsum : timesX s red (gadd (fieldView s) 1 a) = 2 := by
    rw [h.timesX_gadd, h0, hone, h.gadd_zero hN]
  have hlt := h.gadd_lt 1 a
  rcases eq_or_ne (gadd (fieldView s) 1 a) 0 with hz | hz
  · rw [hz, h.timesX_zero] at hsum
    cases hsum
  rcases eq_or_ne (gadd (fieldView s) 1 a) a with hl | hl
  · rw [hl, h0] at hsum
    cases hsum
  have hnext := h.timesX_of_lt helem hz (by omega)
  have hself : gadd (fieldView s) a 1 = gadd (fieldView s) 0 1 := by
    rw [h.gadd_comm a, h.gadd_comm 0, h.gadd_zero (by omega)]
    omega
  exact hne (h.gadd_right_cancel ha h.zero_lt hself)

theorem FieldOk.timesX_injective (hN : 2 < s.fsize.toNat) {a b : Nat} (ha : a < s.fsize.toNat) (hb : b < s.fsize.toNat)
    (heq : timesX s red a = timesX s red b) : a = b := by
  have hdiff : timesX s red (gsub (fieldView s) a b) = 0 := by
    refine h.gadd_right_cancel (h.timesX_lt _ _) h.zero_lt (c := timesX s red b) ?_
    rw [← h.timesX_gadd, h.gsub_gadd_cancel ha, heq, h.gadd_comm, h.gadd_zero (h.timesX_lt _ _)]
  have hsub := h.gsub_gadd_cancel ha b
  rwa [h.eq_zero_of_timesX helem hN (h.gsub_lt _ _) hdiff, h.gadd_comm, h.gadd_zero hb, eq_comm] at hsub

/-- x^N = 1 (R156): the one value that times x takes at no other element is left for the last one. -/
theorem FieldOk.timesX_last (hN : 2 < s.fsize.toNat) : timesX s red (s.fsize.toNat - 1) = 1 := by
  have hlt := h.timesX_lt red (s.fsize.toNat - 1)
  by_contra hne
  rcases eq_or_ne (timesX s red (s.fsize.toNat - 1)) 0 with hz | hz
  · have hlast := h.eq_zero_of_timesX helem hN (by omega) hz
    omega
  · have hprev := h.timesX_of_lt helem (a := timesX s red (s.fsize.toNat - 1) - 1) (by omega) (by omega)
    have hlast := h.timesX_injective helem hN (by omega) (by omega)
      (hprev.trans (Nat.sub_add_cancel (Nat.one_le_iff_ne_zero.2 hz)))
    omega

/-- Times x adds 1 to the exponent modulo N. -/
theorem FieldOk.timesX_exponent (hN : 2 < s.fsize.toNat) (e : Nat) :
    timesX s red (e % (fieldView s).order + 1) = (e + 1) % (fieldView s).order + 1 := by
  have horder : (fieldView s).order = s.fsize.toNat - 1 := rfl
  have hmod := Nat.mod_lt e h.order_pos
  rcases Nat.lt_or_ge (e % (fieldView s).order + 1) (fieldView s).order with hlt | hge
  · rw [h.timesX_of_lt helem (by omega) (by omega), ← Nat.mod_add_mod, Nat.mod_eq_of_lt hlt]
  · have hend : e % (fieldView s).order + 1 = (fieldView s).order := by omega
    rw [hend, ← Nat.mod_add_mod, hend, Nat.mod_self]
    exact h.timesX_last helem hN

/-- As many times x as a count says, from a nonzero element on. -/
theorem FieldOk.iterate_timesX (hN : 2 < s.fsize.toNat) {b : Nat} (hb0 : b ≠ 0) (hb : b < s.fsize.toNat) (n : Nat) :
    (timesX s red)^[n] b = (n + (b - 1)) % (fieldView s).order + 1 := by
  have horder : (fieldView s).order = s.fsize.toNat - 1 := rfl
  induction n with
  | zero =>
    rw [Nat.zero_add, Nat.mod_eq_of_lt (by omega)]
    exact (Nat.sub_add_cancel (Nat.pos_of_ne_zero hb0)).symm
  | succ n ih => rw [Function.iterate_succ_apply', ih, h.timesX_exponent helem hN, Nat.add_right_comm]

/-- The product by a power of x is as many times x (R164); with two elements the one power is 1. -/
theorem FieldOk.gmul_eq_iterate {a b : Nat} (ha0 : a ≠ 0) (ha : a < s.fsize.toNat) (hb : b < s.fsize.toNat) :
    gmul (fieldView s) a b = (timesX s red)^[a - 1] b := by
  rcases eq_or_ne b 0 with rfl | hb0
  · rw [gmul_zero_right, Function.iterate_fixed (h.timesX_zero red)]
  rcases Nat.lt_or_ge 2 s.fsize.toNat with hN | hN
  · rw [gmul_eq _ ha0 hb0, h.iterate_timesX helem hN hb0 hb]
  · obtain rfl : a = 1 := by omega
    rw [gmul_comm, gmul_one h.order_pos (Nat.le_sub_one_of_lt hb)]
    rfl

end TimesX

/-- Settles O34: the product by a is the additive map times x, as often as the exponent of a says. -/
theorem fieldDistributive : Obligations.FieldDistributive := by
  unfold Obligations.FieldDistributive
  intro s a b c h ha hb hc
  obtain ⟨red, -, -, -, helem, -⟩ := h.tables
  rcases eq_or_ne a 0 with rfl | ha0
  · rw [gmul_zero_left, gmul_zero_left, gmul_zero_left, h.gadd_zero h.zero_lt]
  · have hadd : Function.Semiconj₂ (timesX s red) (gadd (fieldView s)) (gadd (fieldView s)) := h.timesX_gadd red
    rw [h.gmul_eq_iterate helem ha0 ha (h.gadd_lt b c), h.gmul_eq_iterate helem ha0 ha hb,
      h.gmul_eq_iterate helem ha0 ha hc]
    exact hadd.iterate _ b c

end Sys2Proof.Machine
end

section
/-! SUPPORT. Trimmed lists (spec/41_polynomial.md R185): what `trim` keeps, how long its result is, and that its entries
determine it. -/

namespace Sys2Proof.Machine

/-! ### Entries -/

theorem at0_eq_getElem {p : List Nat} {i : Nat} (hi : i < p.length) : at0 p i = p[i] := List.getD_eq_getElem _ _ hi

theorem at0_of_length_le {p : List Nat} {i : Nat} (hi : p.length ≤ i) : at0 p i = 0 := List.getD_eq_default _ _ hi

theorem at0_append_singleton (p : List Nat) (c i : Nat) :
    at0 (p ++ [c]) i = if i = p.length then c else at0 p i := by
  rcases lt_trichotomy i p.length with hi | rfl | hi
  · rw [if_neg hi.ne, at0, List.getD_append _ _ _ _ hi, at0]
  · rw [if_pos rfl, at0, List.getD_append_right _ _ _ _ le_rfl, Nat.sub_self]
    rfl
  · rw [if_neg hi.ne', at0_of_length_le hi.le, at0_of_length_le]
    simpa using hi

theorem at0_set {p : List Nat} {k : Nat} (hk : k < p.length) (v i : Nat) :
    at0 (p.set k v) i = if i = k then v else at0 p i := by
  rcases eq_or_ne i k with rfl | hne
  · rw [if_pos rfl, at0_eq_getElem (by simpa using hk), List.getElem_set_self]
  · rw [if_neg hne, at0, at0, List.getD_eq_getElem?_getD, List.getD_eq_getElem?_getD, List.getElem?_set_ne hne.symm]

theorem at0_take {p : List Nat} {n : Nat} (hp : ∀ i, n ≤ i → at0 p i = 0) (i : Nat) : at0 (p.take n) i = at0 p i := by
  rcases Nat.lt_or_ge i n with hi | hi
  · rw [at0, at0, List.getD_eq_getElem?_getD, List.getD_eq_getElem?_getD, List.getElem?_take_of_lt hi]
  · rw [hp i hi, at0_of_length_le ((List.length_take_le n p).trans hi)]

/-- A list is determined by its length and its entries. -/
theorem eq_of_at0_eq {p r : List Nat} (hlen : p.length = r.length) (h : ∀ i, at0 p i = at0 r i) : p = r :=
  (eq_tabulate_of_at0 hlen fun i _ => h i).trans (tabulate_at0 r)

/-! ### trim -/

theorem trim_append_zero (p : List Nat) : trim (p ++ [0]) = trim p := by simp [trim]

theorem trim_append_ne_zero (p : List Nat) {c : Nat} (hc : c ≠ 0) : trim (p ++ [c]) = p ++ [c] := by
  have hkept : ((p ++ [c]).reverse.dropWhile (· == 0)).reverse = p ++ [c] := by simp [hc]
  rw [trim, hkept]
  cases p <;> rfl

/-- What holds of [0] and of every list that ends in another entry than 0 holds of every trimmed list. -/
theorem trim_induction {P : List Nat → Prop} (zero : P [0]) (append : ∀ p c, c ≠ 0 → P (p ++ [c])) (p : List Nat) :
    P (trim p) := by
  induction p using List.reverseRecOn with
  | nil => exact zero
  | append_singleton p c ih =>
    rcases eq_or_ne c 0 with rfl | hc
    · rwa [trim_append_zero]
    · rw [trim_append_ne_zero p hc]
      exact append p c hc

theorem trim_trim (p : List Nat) : trim (trim p) = trim p :=
  trim_induction (P := fun r => trim r = r) rfl (fun r _ hc => trim_append_ne_zero r hc) p

theorem one_le_length_trim (p : List Nat) : 1 ≤ (trim p).length :=
  trim_induction (P := fun r => 1 ≤ r.length) le_rfl (fun r c _ => by simp) p

/-- The last entry of a trimmed list is not 0 but in [0]. -/
theorem at0_last_trim (p : List Nat) (h : trim p ≠ [0]) : at0 (trim p) ((trim p).length - 1) ≠ 0 := by
  refine trim_induction (P := fun r => r ≠ [0] → at0 r (r.length - 1) ≠ 0) (fun h => absurd rfl h)
    (fun r c hc _ => ?_) p h
  rw [at0_append_singleton, if_pos (by simp)]
  exact hc

theorem length_trim_le (p : List Nat) : (trim p).length ≤ max 1 p.length := by
  induction p using List.reverseRecOn with
  | nil => exact le_rfl
  | append_singleton p c ih =>
    rcases eq_or_ne c 0 with rfl | hc
    · rw [trim_append_zero, List.length_append, List.length_singleton]
      omega
    · rw [trim_append_ne_zero p hc]
      exact le_max_right _ _

@[simp] theorem at0_trim (p : List Nat) (i : Nat) : at0 (trim p) i = at0 p i := by
  induction p using List.reverseRecOn with
  | nil => cases i <;> rfl
  | append_singleton p c ih =>
    rcases eq_or_ne c 0 with rfl | hc
    · rw [trim_append_zero, ih, at0_append_singleton]
      split
      · exact at0_of_length_le (by omega)
      · rfl
    · rw [trim_append_ne_zero p hc]

theorem mem_trim {p : List Nat} {c : Nat} (hc : c ∈ trim p) : c = 0 ∨ c ∈ p := by
  obtain ⟨i, hi, rfl⟩ := List.getElem_of_mem hc
  rw [← at0_eq_getElem hi, at0_trim]
  rcases Nat.lt_or_ge i p.length with hip | hip
  · exact .inr (at0_eq_getElem hip ▸ List.getElem_mem hip)
  · exact .inl (at0_of_length_le hip)

/-- A list reads as the zero polynomial exactly when all its entries are 0. -/
theorem trim_eq_zero_iff {p : List Nat} : trim p = [0] ↔ ∀ i, at0 p i = 0 := by
  constructor
  · intro h i
    rw [← at0_trim, h]
    cases i <;> rfl
  · intro h
    by_contra hne
    exact at0_last_trim p hne ((at0_trim p _).trans (h _))

theorem trim_eq_zero_iff_forall_mem {p : List Nat} : trim p = [0] ↔ ∀ c ∈ p, c = 0 := by
  rw [trim_eq_zero_iff]
  refine ⟨fun h c hc => ?_, fun h i => ?_⟩
  · obtain ⟨i, hi, rfl⟩ := List.getElem_of_mem hc
    rw [← at0_eq_getElem hi, h]
  · rcases Nat.lt_or_ge i p.length with hi | hi
    · rw [at0_eq_getElem hi]
      exact h _ (List.getElem_mem hi)
    · exact at0_of_length_le hi

end Sys2Proof.Machine
end

section
/-! SUPPORT. Lists of element indices as polynomials over a field (spec/41_polynomial.md R186): when the element
functions are the operations of a field K, the helper functions on lists are the operations of K[X]. -/

namespace Sys2Proof.Machine

open scoped Polynomial

/-! ### The element functions as a field -/

/-- The elements below FSIZE, read by `ι`, are a field K, and the element functions of R162 to R167 its operations. -/
structure Realizes (F : FieldView) {K : Type} [Field K] (ι : Nat → K) : Prop where
  two_le_size : 2 ≤ F.size
  zero : ι 0 = 0
  one : ι 1 = 1
  gadd_lt : ∀ a b, gadd F a b < F.size
  gsub_lt : ∀ a b, gsub F a b < F.size
  alpha_lt : ∀ e, alpha F e < F.size
  add : ∀ a < F.size, ∀ b < F.size, ι (gadd F a b) = ι a + ι b
  sub : ∀ a < F.size, ∀ b < F.size, ι (gsub F a b) = ι a - ι b
  mul : ∀ a < F.size, ∀ b < F.size, ι (gmul F a b) = ι a * ι b
  injective : ∀ a < F.size, ∀ b < F.size, ι a = ι b → a = b
  surjective : ∀ x, ∃ a < F.size, ι a = x

/-- A list of element indices. -/
def Coeffs (F : FieldView) (p : List Nat) : Prop := ∀ c ∈ p, c < F.size

/-- A trimmed list of element indices, the form of every result (R185). -/
def Reduced (F : FieldView) (p : List Nat) : Prop := Coeffs F p ∧ trim p = p

/-- The polynomial over K that a list of element indices stands for (R185). -/
noncomputable def polyOf {K : Type} [Field K] (ι : Nat → K) (p : List Nat) : K[X] :=
  ∑ i ∈ Finset.range p.length, Polynomial.monomial i (ι (at0 p i))

section Realized

variable {F : FieldView} {K : Type} [Field K] {ι : Nat → K} (hι : Realizes F ι)

include hι

theorem Realizes.size_pos : 0 < F.size := Nat.zero_lt_of_lt hι.two_le_size

theorem Realizes.gmul_lt (a b : Nat) : gmul F a b < F.size := by
  unfold gmul
  split
  · exact hι.size_pos
  · exact hι.alpha_lt _

theorem Realizes.gdiv_lt (a b : Nat) : gdiv F a b < F.size := by
  unfold gdiv
  split
  · exact hι.size_pos
  · exact hι.alpha_lt _

theorem Realizes.eq_zero_iff {a : Nat} (ha : a < F.size) : ι a = 0 ↔ a = 0 :=
  ⟨fun h => hι.injective a ha 0 hι.size_pos (h.trans hι.zero.symm), fun h => h ▸ hι.zero⟩

theorem Realizes.order_pos : 0 < F.order := Nat.sub_pos_of_lt hι.two_le_size

theorem Realizes.div_mul {a b : Nat} (ha : a < F.size) (hb : b < F.size) (hb0 : b ≠ 0) :
    ι (gdiv F a b) * ι b = ι a := by
  rw [← hι.mul _ (hι.gdiv_lt a b) b hb,
    gmul_gdiv hι.order_pos (Nat.le_sub_one_of_lt ha) hb0 (Nat.le_sub_one_of_lt hb)]

theorem Realizes.inv_mul {a : Nat} (ha : a < F.size) (ha0 : a ≠ 0) : ι (ginv F a) * ι a = 1 := by
  rw [mul_comm, ← hι.mul a ha (ginv F a) (hι.alpha_lt _), gmul_ginv hι.order_pos ha0 (Nat.le_sub_one_of_lt ha), hι.one]

/-! ### Lists of elements -/

theorem Realizes.at0_lt {p : List Nat} (hp : Coeffs F p) (i : Nat) : at0 p i < F.size := by
  rcases Nat.lt_or_ge i p.length with hi | hi
  · exact at0_eq_getElem hi ▸ hp _ (List.getElem_mem hi)
  · exact at0_of_length_le hi ▸ hι.size_pos

theorem Realizes.coeffs_trim {p : List Nat} (hp : Coeffs F p) : Coeffs F (trim p) := fun c hc => by
  rcases mem_trim hc with rfl | hc
  · exact hι.size_pos
  · exact hp c hc

theorem Realizes.reduced_trim {p : List Nat} (hp : Coeffs F p) : Reduced F (trim p) :=
  ⟨hι.coeffs_trim hp, trim_trim p⟩

omit hι in
theorem coeffs_tabulate {n : Nat} {f : Nat → Nat} (hf : ∀ i, f i < F.size) : Coeffs F (tabulate n f) := fun c hc => by
  obtain ⟨i, -, rfl⟩ := mem_tabulate.1 hc
  exact hf i

omit hι in
theorem coeffs_set {p : List Nat} (hp : Coeffs F p) (k : Nat) {v : Nat} (hv : v < F.size) : Coeffs F (p.set k v) :=
  fun c hc => (List.mem_or_eq_of_mem_set hc).elim (hp c) fun h => h ▸ hv

theorem Realizes.coeffs_zeros (n : Nat) : Coeffs F (List.replicate n 0) :=
  fun _ hc => List.eq_of_mem_replicate hc ▸ hι.size_pos

theorem Realizes.reduced_zero : Reduced F [0] := ⟨by simpa [Coeffs] using hι.size_pos, rfl⟩

theorem Realizes.reduced_one : Reduced F [1] := ⟨by simpa [Coeffs] using Nat.lt_of_succ_le hι.two_le_size, rfl⟩

/-! ### The polynomial of a list -/

theorem Realizes.coeff_polyOf (p : List Nat) (i : Nat) : (polyOf ι p).coeff i = ι (at0 p i) := by
  simp only [polyOf, Polynomial.finsetSum_coeff, Polynomial.coeff_monomial, Finset.sum_ite_eq', Finset.mem_range]
  split
  · rfl
  · rw [at0_of_length_le (by omega), hι.zero]

theorem Realizes.polyOf_congr {p r : List Nat} (h : ∀ i, at0 p i = at0 r i) : polyOf ι p = polyOf ι r :=
  Polynomial.ext fun i => by rw [hι.coeff_polyOf, hι.coeff_polyOf, h]

theorem Realizes.polyOf_trim (p : List Nat) : polyOf ι (trim p) = polyOf ι p := hι.polyOf_congr (at0_trim p)

theorem Realizes.polyOf_zeros (n : Nat) : polyOf ι (List.replicate n 0) = 0 :=
  Finset.sum_eq_zero fun i hi => by simp [at0, hι.zero]

theorem Realizes.polyOf_zero : polyOf ι [0] = 0 := hι.polyOf_zeros 1

theorem Realizes.polyOf_one : polyOf ι [1] = 1 := by simp [polyOf, at0, hι.one]

theorem Realizes.polyOf_cons (c : Nat) (p : List Nat) :
    polyOf ι (c :: p) = Polynomial.C (ι c) + Polynomial.X * polyOf ι p := by
  refine Polynomial.ext fun i => ?_
  rw [hι.coeff_polyOf]
  cases i with
  | zero => simp [at0]
  | succ i => simp [hι.coeff_polyOf, at0]

theorem Realizes.polyOf_set {p : List Nat} {k : Nat} (hk : k < p.length) (v : Nat) :
    polyOf ι (p.set k v) = polyOf ι p + Polynomial.monomial k (ι v - ι (at0 p k)) := by
  refine Polynomial.ext fun i => ?_
  rw [Polynomial.coeff_add, hι.coeff_polyOf, hι.coeff_polyOf, Polynomial.coeff_monomial, at0_set hk]
  rcases eq_or_ne i k with rfl | hne
  · rw [if_pos rfl, if_pos rfl, add_sub_cancel]
  · rw [if_neg hne, if_neg hne.symm, add_zero]

theorem Realizes.polyOf_eq_zero_iff {p : List Nat} (hp : Coeffs F p) : polyOf ι p = 0 ↔ trim p = [0] := by
  rw [trim_eq_zero_iff, Polynomial.ext_iff]
  exact forall_congr' fun i => by
    rw [hι.coeff_polyOf, Polynomial.coeff_zero, hι.eq_zero_iff (hι.at0_lt hp i)]

/-- The degree of a polynomial is the number of entries of its trimmed list less one (R185). -/
theorem Realizes.length_trim {p : List Nat} (hp : Coeffs F p) : (trim p).length = (polyOf ι p).natDegree + 1 := by
  have hpos := one_le_length_trim p
  have hle : (polyOf ι p).natDegree ≤ (trim p).length - 1 := by
    refine Polynomial.natDegree_le_iff_coeff_eq_zero.2 fun i hi => ?_
    rw [hι.coeff_polyOf, ← at0_trim, at0_of_length_le (by omega), hι.zero]
  rcases eq_or_ne (trim p) [0] with h0 | h0
  · rw [(hι.polyOf_eq_zero_iff hp).2 h0, h0]
    rfl
  · have hlast := at0_last_trim p h0
    have hge : (trim p).length - 1 ≤ (polyOf ι p).natDegree := by
      refine Polynomial.le_natDegree_of_ne_zero ?_
      rw [hι.coeff_polyOf, ne_eq, hι.eq_zero_iff (hι.at0_lt hp _), ← at0_trim]
      exact hlast
    omega

theorem Realizes.length_reduced {p : List Nat} (hp : Reduced F p) : p.length = (polyOf ι p).natDegree + 1 := by
  rw [← hι.length_trim hp.1, hp.2]

/-- A polynomial has one reduced list. -/
theorem Realizes.eq_of_polyOf_eq {p r : List Nat} (hp : Reduced F p) (hr : Reduced F r)
    (h : polyOf ι p = polyOf ι r) : p = r := by
  refine eq_of_at0_eq ?_ fun i => hι.injective _ (hι.at0_lt hp.1 i) _ (hι.at0_lt hr.1 i) ?_
  · rw [hι.length_reduced hp, hι.length_reduced hr, h]
  · rw [← hι.coeff_polyOf, ← hι.coeff_polyOf, h]

theorem Realizes.eq_zero_of_polyOf {p : List Nat} (hp : Reduced F p) (h : polyOf ι p = 0) : p = [0] := by
  rw [← hp.2]
  exact (hι.polyOf_eq_zero_iff hp.1).1 h

/-- The last entry of a reduced list is the leading coefficient. -/
theorem Realizes.leadingCoeff_polyOf {p : List Nat} (hp : Reduced F p) :
    (polyOf ι p).leadingCoeff = ι (at0 p (p.length - 1)) := by
  rw [Polynomial.leadingCoeff, hι.coeff_polyOf, hι.length_reduced hp, Nat.add_sub_cancel]

/-- Every polynomial over K has a list. -/
theorem Realizes.exists_polyOf_eq (f : K[X]) : ∃ p, Coeffs F p ∧ polyOf ι p = f := by
  choose a ha hιa using fun i => hι.surjective (f.coeff i)
  refine ⟨tabulate (f.natDegree + 1) a, coeffs_tabulate ha, Polynomial.ext fun i => ?_⟩
  rw [hι.coeff_polyOf, at0_tabulate]
  split
  · exact hιa i
  · rw [hι.zero, Polynomial.coeff_eq_zero_of_natDegree_lt (by omega)]

/-! ### Sums and multiples -/

theorem Realizes.reduced_padd (a b : List Nat) : Reduced F (padd F a b) :=
  hι.reduced_trim (coeffs_tabulate fun _ => hι.gadd_lt _ _)

theorem Realizes.reduced_psub (a b : List Nat) : Reduced F (psub F a b) :=
  hι.reduced_trim (coeffs_tabulate fun _ => hι.gsub_lt _ _)

theorem Realizes.reduced_pscale (a : List Nat) (c : Nat) : Reduced F (pscale F a c) := by
  refine hι.reduced_trim fun v hv => ?_
  obtain ⟨x, -, rfl⟩ := List.mem_map.1 hv
  exact hι.gmul_lt x c

theorem Realizes.polyOf_padd {a b : List Nat} (ha : Coeffs F a) (hb : Coeffs F b) :
    polyOf ι (padd F a b) = polyOf ι a + polyOf ι b := by
  refine Polynomial.ext fun i => ?_
  rw [Polynomial.coeff_add, hι.coeff_polyOf, hι.coeff_polyOf, hι.coeff_polyOf, padd, at0_trim, at0_tabulate]
  split
  · exact hι.add _ (hι.at0_lt ha i) _ (hι.at0_lt hb i)
  · rw [at0_of_length_le (p := a) (by omega), at0_of_length_le (p := b) (by omega), hι.zero, add_zero]

theorem Realizes.polyOf_psub {a b : List Nat} (ha : Coeffs F a) (hb : Coeffs F b) :
    polyOf ι (psub F a b) = polyOf ι a - polyOf ι b := by
  refine Polynomial.ext fun i => ?_
  rw [Polynomial.coeff_sub, hι.coeff_polyOf, hι.coeff_polyOf, hι.coeff_polyOf, psub, at0_trim, at0_tabulate]
  split
  · exact hι.sub _ (hι.at0_lt ha i) _ (hι.at0_lt hb i)
  · rw [at0_of_length_le (p := a) (by omega), at0_of_length_le (p := b) (by omega), hι.zero, sub_zero]

theorem Realizes.polyOf_pscale {a : List Nat} (ha : Coeffs F a) {c : Nat} (hc : c < F.size) :
    polyOf ι (pscale F a c) = Polynomial.C (ι c) * polyOf ι a := by
  refine Polynomial.ext fun i => ?_
  rw [Polynomial.coeff_C_mul, hι.coeff_polyOf, hι.coeff_polyOf, pscale, at0_trim]
  rcases Nat.lt_or_ge i a.length with hi | hi
  · rw [at0_eq_getElem (by simpa using hi), List.getElem_map, at0_eq_getElem hi,
      hι.mul _ (ha _ (List.getElem_mem hi)) c hc, mul_comm]
  · rw [at0_of_length_le (by simpa using hi), at0_of_length_le hi, hι.zero, mul_zero]

/-! ### Loops that add a term to a list -/

omit hι in
/-- A loop over [0, n) that keeps `P` and adds the polynomial `g i` in pass i adds them all. -/
theorem foldl_range_polyOf {P : List Nat → Prop} {f : List Nat → Nat → List Nat} {g : Nat → K[X]} {n : Nat}
    (hf : ∀ i < n, ∀ r, P r → P (f r i) ∧ polyOf ι (f r i) = polyOf ι r + g i) {r : List Nat} (hr : P r) :
    P ((List.range n).foldl f r) ∧
      polyOf ι ((List.range n).foldl f r) = polyOf ι r + ∑ i ∈ Finset.range n, g i := by
  induction n with
  | zero => exact ⟨hr, (add_zero _).symm⟩
  | succ n ih =>
    obtain ⟨hP, hsum⟩ := ih fun i hi => hf i (by omega)
    obtain ⟨hP', hstep⟩ := hf n (by omega) _ hP
    rw [List.range_succ, List.foldl_append, Finset.sum_range_succ, ← add_assoc, ← hsum]
    exact ⟨hP', hstep⟩

/-- A vector of `len` elements, the form of the accumulators of the loops. -/
def Buffer (F : FieldView) (len : Nat) (r : List Nat) : Prop := r.length = len ∧ Coeffs F r

omit hι in
theorem buffer_set {len : Nat} {r : List Nat} (hr : Buffer F len r) (k : Nat) {v : Nat} (hv : v < F.size) :
    Buffer F len (r.set k v) := ⟨(List.length_set ..).trans hr.1, coeffs_set hr.2 k hv⟩

theorem Realizes.buffer_zeros (n : Nat) : Buffer F n (List.replicate n 0) :=
  ⟨List.length_replicate, hι.coeffs_zeros n⟩

/-- One coefficient of the convolution: `res[k] = gadd(res[k], gmul(x, y))`. -/
theorem Realizes.polyOf_accumulate {len k x y : Nat} {r : List Nat} (hr : Buffer F len r) (hk : k < len)
    (hx : x < F.size) (hy : y < F.size) :
    Buffer F len (accumulate F r k (gmul F x y)) ∧
      polyOf ι (accumulate F r k (gmul F x y)) = polyOf ι r + Polynomial.monomial k (ι x * ι y) := by
  refine ⟨buffer_set hr k (hι.gadd_lt _ _), ?_⟩
  rw [accumulate, hι.polyOf_set (hr.1 ▸ hk), hι.add _ (hι.at0_lt hr.2 k) _ (hι.gmul_lt x y), add_sub_cancel_left,
    hι.mul x hx y hy]

omit hι in
/-- One row of the convolution: the multiple of b by a monomial. -/
theorem sum_monomial_mul (i : Nat) (x : K) (b : List Nat) :
    ∑ j ∈ Finset.range b.length, Polynomial.monomial (i + j) (x * ι (at0 b j)) =
      Polynomial.monomial i x * polyOf ι b := by
  rw [polyOf, Finset.mul_sum]
  exact Finset.sum_congr rfl fun j _ => (Polynomial.monomial_mul_monomial ..).symm

/-- One pass of the outer loop of `pmul` adds that row. -/
theorem Realizes.polyOf_convolutionRow {len i x : Nat} {r b : List Nat} (hr : Buffer F len r)
    (hlen : i + b.length ≤ len) (hx : x < F.size) (hb : Coeffs F b) :
    Buffer F len ((List.range b.length).foldl (fun res j => accumulate F res (i + j) (gmul F x (at0 b j))) r) ∧
      polyOf ι ((List.range b.length).foldl (fun res j => accumulate F res (i + j) (gmul F x (at0 b j))) r) =
        polyOf ι r + Polynomial.monomial i (ι x) * polyOf ι b := by
  rw [← sum_monomial_mul]
  refine foldl_range_polyOf (P := Buffer F len) (fun j hj r hr => ?_) hr
  exact hι.polyOf_accumulate hr (by omega) hx (hι.at0_lt hb j)

theorem Realizes.reduced_polyOf_pmul {a b : List Nat} (ha : Coeffs F a) (hb : Coeffs F b) :
    Reduced F (pmul F a b) ∧ polyOf ι (pmul F a b) = polyOf ι a * polyOf ι b := by
  have hrow (i : Nat) (hi : i < (trim a).length) (r : List Nat)
      (hr : Buffer F ((trim a).length + (trim b).length - 1) r) :=
    hι.polyOf_convolutionRow hr (i := i) (b := trim b) (by omega) (hι.at0_lt (hι.coeffs_trim ha) i) (hι.coeffs_trim hb)
  obtain ⟨hbuf, hsum⟩ := foldl_range_polyOf hrow (hι.buffer_zeros _)
  refine ⟨hι.reduced_trim hbuf.2, (hι.polyOf_trim _).trans (hsum.trans ?_)⟩
  rw [hι.polyOf_zeros, zero_add, ← Finset.sum_mul, ← polyOf, hι.polyOf_trim, hι.polyOf_trim]

theorem Realizes.reduced_pmul {a b : List Nat} (ha : Coeffs F a) (hb : Coeffs F b) : Reduced F (pmul F a b) :=
  (hι.reduced_polyOf_pmul ha hb).1

theorem Realizes.polyOf_pmul {a b : List Nat} (ha : Coeffs F a) (hb : Coeffs F b) :
    polyOf ι (pmul F a b) = polyOf ι a * polyOf ι b := (hι.reduced_polyOf_pmul ha hb).2

/-! ### Division with remainder -/

/-- The subtraction of R186's division: `rem - c x^sh b`. -/
theorem Realizes.polyOf_subtractShifted {len sh db c : Nat} {r b : List Nat} (hr : Buffer F len r)
    (hlen : sh + db < len) (hb : Buffer F (db + 1) b) (hc : c < F.size) :
    Buffer F len (subtractShifted F r b sh db c) ∧
      polyOf ι (subtractShifted F r b sh db c) = polyOf ι r - Polynomial.monomial sh (ι c) * polyOf ι b := by
  have hsum : -(Polynomial.monomial sh (ι c) * polyOf ι b) =
      ∑ i ∈ Finset.range (db + 1), -Polynomial.monomial (sh + i) (ι c * ι (at0 b i)) := by
    rw [Finset.sum_neg_distrib, ← hb.1, sum_monomial_mul]
  rw [sub_eq_add_neg, hsum, subtractShifted]
  refine foldl_range_polyOf (P := Buffer F len) (fun i hi r hr => ⟨buffer_set hr _ (hι.gsub_lt _ _), ?_⟩) hr
  rw [hι.polyOf_set (by rw [hr.1]; omega), hι.sub _ (hι.at0_lt hr.2 _) _ (hι.gmul_lt _ _),
    hι.mul _ hc _ (hι.at0_lt hb.2 i), sub_sub_cancel_left, map_neg]

/-- The division loop keeps `quo b + rem` and leaves a remainder of degree below that of b (R186, R191). -/
theorem Realizes.divLoop_spec {db lq lr : Nat} {b : List Nat} (hb : Buffer F (db + 1) b) (hlead : at0 b db ≠ 0)
    {n : Nat} {quo rem : List Nat} (hquo : Buffer F lq quo) (hrem : Buffer F lr rem) (hnq : n ≤ lq) (hnr : n + db ≤ lr)
    (hzero : ∀ i < n, at0 quo i = 0) (hdeg : ∀ i, n + db ≤ i → (polyOf ι rem).coeff i = 0) :
    Buffer F lq (divLoop F b db n quo rem).1 ∧ Buffer F lr (divLoop F b db n quo rem).2 ∧
      polyOf ι (divLoop F b db n quo rem).1 * polyOf ι b + polyOf ι (divLoop F b db n quo rem).2 =
        polyOf ι quo * polyOf ι b + polyOf ι rem ∧
      ∀ i, db ≤ i → (polyOf ι (divLoop F b db n quo rem).2).coeff i = 0 := by
  induction n generalizing quo rem with
  | zero => exact ⟨hquo, hrem, rfl, fun i hi => hdeg i (by omega)⟩
  | succ sh ih =>
    rw [divLoop]
    generalize hc : gdiv F (at0 rem (sh + db)) (at0 b db) = c
    have hclt : c < F.size := hc ▸ hι.gdiv_lt _ _
    have hιc : ι c * ι (at0 b db) = ι (at0 rem (sh + db)) :=
      hc ▸ hι.div_mul (hι.at0_lt hrem.2 _) (hι.at0_lt hb.2 _) hlead
    obtain ⟨hrem', hpoly⟩ : Buffer F lr (if c = 0 then rem else subtractShifted F rem b sh db c) ∧
        polyOf ι (if c = 0 then rem else subtractShifted F rem b sh db c) =
          polyOf ι rem - Polynomial.monomial sh (ι c) * polyOf ι b := by
      split
      · rename_i h0
        exact ⟨hrem, by rw [h0, hι.zero, map_zero, zero_mul, sub_zero]⟩
      · exact hι.polyOf_subtractShifted hrem (by omega) hb hclt
    have hquo' : polyOf ι (quo.set sh c) = polyOf ι quo + Polynomial.monomial sh (ι c) := by
      rw [hι.polyOf_set (by rw [hquo.1]; omega), hzero sh (by omega), hι.zero, sub_zero]
    obtain ⟨h1, h2, h3, h4⟩ := ih (buffer_set hquo sh hclt) hrem' (by omega) (by omega)
      (fun i hi => by rw [at0_set (by rw [hquo.1]; omega), if_neg (by omega), hzero i (by omega)])
      (fun i hi => by
        obtain ⟨k, rfl⟩ := Nat.exists_eq_add_of_le' (show sh ≤ i by omega)
        rw [hpoly, Polynomial.coeff_sub, Polynomial.coeff_monomial_mul, hι.coeff_polyOf b]
        rcases eq_or_ne k db with rfl | hk
        · rw [hιc, hι.coeff_polyOf, Nat.add_comm k sh, sub_self]
        · rw [hdeg _ (by omega), at0_of_length_le (by rw [hb.1]; omega), hι.zero, mul_zero, sub_zero])
    refine ⟨h1, h2, h3.trans ?_, h4⟩
    rw [hquo', hpoly]
    ring

/-- The remainder that R186 writes: the entries below db, or [0] when there is none. -/
theorem Realizes.truncate_spec {n : Nat} {r : List Nat} (hr : Coeffs F r)
    (hdeg : ∀ i, n ≤ i → (polyOf ι r).coeff i = 0) :
    Reduced F (if 0 < n then trim (r.take n) else [0]) ∧
      polyOf ι (if 0 < n then trim (r.take n) else [0]) = polyOf ι r := by
  have htail (i : Nat) (hi : n ≤ i) : at0 r i = 0 := by
    rw [← hι.eq_zero_iff (hι.at0_lt hr i), ← hι.coeff_polyOf]
    exact hdeg i hi
  split
  · exact ⟨hι.reduced_trim fun c hc => hr c (List.mem_of_mem_take hc),
      (hι.polyOf_trim _).trans (hι.polyOf_congr (at0_take htail))⟩
  · refine ⟨hι.reduced_zero, hι.polyOf_zero.trans ?_⟩
    exact ((hι.polyOf_eq_zero_iff hr).2 (trim_eq_zero_iff.2 fun i => htail i (by omega))).symm

/-- Division with remainder by a nonzero polynomial (R186, R191). -/
theorem Realizes.pdivmod_spec {a b : List Nat} (ha : Coeffs F a) (hb : Coeffs F b) (hb0 : polyOf ι b ≠ 0) :
    Reduced F (pdivmod F a b).1 ∧ Reduced F (pdivmod F a b).2 ∧
      polyOf ι a = polyOf ι (pdivmod F a b).1 * polyOf ι b + polyOf ι (pdivmod F a b).2 ∧
      (polyOf ι (pdivmod F a b).2).degree < (polyOf ι b).degree := by
  have hta := hι.coeffs_trim ha
  have hla := one_le_length_trim a
  have hlb := one_le_length_trim b
  have hdb : (trim b).length - 1 = (polyOf ι b).natDegree := by rw [hι.length_trim hb, Nat.add_sub_cancel]
  rw [Polynomial.degree_eq_natDegree hb0, Polynomial.degree_lt_iff_coeff_zero, ← hdb]
  unfold pdivmod
  dsimp only
  split
  · rw [hι.polyOf_trim, hι.polyOf_trim, hι.polyOf_zero, zero_mul, zero_add]
    refine ⟨hι.reduced_zero, hι.reduced_trim hta, rfl, fun i hi => ?_⟩
    rw [← hι.polyOf_trim, hι.coeff_polyOf, at0_of_length_le (by omega), hι.zero]
  · obtain ⟨hquo, hrem, hsum, hdeg⟩ := hι.divLoop_spec (db := (trim b).length - 1)
      ⟨(Nat.sub_add_cancel hlb).symm, hι.coeffs_trim hb⟩ (at0_last_trim b (mt (hι.polyOf_eq_zero_iff hb).2 hb0))
      (hι.buffer_zeros ((trim a).length - ((trim b).length - 1))) ⟨rfl, hta⟩ le_rfl (by omega)
      (fun i _ => by simp [at0])
      (fun i hi => by rw [hι.coeff_polyOf, at0_of_length_le (by omega), hι.zero])
    obtain ⟨hred, hpoly⟩ := hι.truncate_spec hrem.2 hdeg
    rw [hι.polyOf_zeros, zero_mul, zero_add, hι.polyOf_trim, hι.polyOf_trim] at hsum
    rw [hpoly, hι.polyOf_trim]
    exact ⟨hι.reduced_trim hquo.2, hred, hsum.symm, hdeg⟩

/-! ### Evaluation -/

omit hι in
theorem eval_polyOf (p : List Nat) (x : K) :
    (polyOf ι p).eval x = ∑ i ∈ Finset.range p.length, ι (at0 p i) * x ^ i := by
  simp only [polyOf, Polynomial.eval_finsetSum, Polynomial.eval_monomial]

/-- The loop of `peval` adds the value of the polynomial times the running power. -/
theorem Realizes.foldl_evalStep {p : List Nat} (hp : Coeffs F p) {x r xp : Nat} (hx : x < F.size) (hr : r < F.size)
    (hxp : xp < F.size) :
    (p.foldl (evalStep F x) (r, xp)).1 < F.size ∧
      ι (p.foldl (evalStep F x) (r, xp)).1 = ι r + ι xp * (polyOf ι p).eval (ι x) := by
  induction p generalizing r xp with
  | nil => exact ⟨hr, by simp [polyOf]⟩
  | cons c p ih =>
    have hc : c < F.size := hp c List.mem_cons_self
    obtain ⟨hlt, hval⟩ := ih (fun c hc => hp c (List.mem_cons_of_mem _ hc)) (hι.gadd_lt r (gmul F c xp))
      (hι.gmul_lt xp x)
    refine ⟨hlt, hval.trans ?_⟩
    rw [hι.add r hr _ (hι.gmul_lt c xp), hι.mul c hc xp hxp, hι.mul xp hxp x hx, hι.polyOf_cons, Polynomial.eval_add,
      Polynomial.eval_C, Polynomial.eval_mul, Polynomial.eval_X]
    ring

theorem Realizes.peval_spec {p : List Nat} (hp : Coeffs F p) {x : Nat} (hx : x < F.size) :
    peval F p x < F.size ∧ ι (peval F p x) = (polyOf ι p).eval (ι x) := by
  obtain ⟨hlt, hval⟩ := hι.foldl_evalStep (hι.coeffs_trim hp) hx hι.size_pos hι.two_le_size
  refine ⟨hlt, hval.trans ?_⟩
  rw [hι.zero, hι.one, zero_add, one_mul, hι.polyOf_trim]

end Realized

end Sys2Proof.Machine
end

section
/-! SUPPORT. The built field of a state as a field (spec/40_field.md R181), and the sums of the statements in it. -/

namespace Sys2Proof.Machine

open Sys2Proof

/-! ### The field of the elements -/

/-- An element of the built field: an index below FSIZE (spec/00_scope.md R9). -/
structure Element (s : State) where
  index : Nat
  lt : index < s.fsize.toNat

theorem Element.ext_index {s : State} {a b : Element s} (h : a.index = b.index) : a = b := by
  cases a
  cases h
  rfl

theorem Element.le_order {s : State} (a : Element s) : a.index ≤ (fieldView s).order := Nat.le_sub_one_of_lt a.lt

section Built

variable {s : State} (h : FieldOk s)

include h

theorem FieldOk.gmul_lt (a b : Nat) : gmul (fieldView s) a b < s.fsize.toNat := by
  unfold gmul
  split
  · exact h.zero_lt
  · exact (h.alpha_lt _).2

/-- The elements of the built field with the element functions of R162 and R164: a commutative ring. -/
abbrev FieldOk.elementRing : CommRing (Element s) :=
  letI : Add (Element s) := ⟨fun a b => ⟨gadd (fieldView s) a.index b.index, h.gadd_lt _ _⟩⟩
  letI : Mul (Element s) := ⟨fun a b => ⟨gmul (fieldView s) a.index b.index, h.gmul_lt _ _⟩⟩
  letI : Neg (Element s) := ⟨fun a => ⟨gsub (fieldView s) 0 a.index, h.gsub_lt _ _⟩⟩
  letI : Zero (Element s) := ⟨⟨0, h.zero_lt⟩⟩
  letI : One (Element s) := ⟨⟨1, h.two_le_size⟩⟩
  CommRing.ofMinimalAxioms
    (fun a b c => Element.ext_index (h.gadd_assoc a.index b.index c.index))
    (fun a => Element.ext_index ((h.gadd_comm 0 a.index).trans (h.gadd_zero a.lt)))
    (fun a => Element.ext_index (h.gsub_gadd_cancel h.zero_lt a.index))
    (fun a b c => Element.ext_index (gmul_assoc h.order_pos a.le_order b.le_order c.le_order))
    (fun a b => Element.ext_index (gmul_comm _ a.index b.index))
    (fun a => Element.ext_index ((gmul_comm _ 1 a.index).trans (gmul_one h.order_pos a.le_order)))
    (fun a b c => Element.ext_index (fieldDistributive s a.index b.index c.index h a.lt b.lt c.lt))

/-- The inverse of R167 makes the ring of the elements a field. -/
theorem FieldOk.isField_element : letI := h.elementRing; IsField (Element s) :=
  letI := h.elementRing
  { exists_pair_ne := ⟨0, 1, fun h01 => Nat.zero_ne_one (congrArg Element.index h01)⟩
    mul_comm := mul_comm
    mul_inv_cancel := fun {a} ha => ⟨⟨ginv (fieldView s) a.index, (h.alpha_lt _).2⟩,
      Element.ext_index (gmul_ginv h.order_pos (fun h0 => ha (Element.ext_index h0)) a.le_order)⟩ }

/-- The built field as a field. -/
noncomputable abbrev FieldOk.elementField : Field (Element s) :=
  letI := h.elementRing
  h.isField_element.toField

/-- The element that an index names, 0 past the last one. -/
def FieldOk.element (a : Nat) : Element s := if ha : a < s.fsize.toNat then ⟨a, ha⟩ else ⟨0, h.zero_lt⟩

theorem FieldOk.element_of_lt {a : Nat} (ha : a < s.fsize.toNat) : h.element a = ⟨a, ha⟩ := dif_pos ha

/-- The element functions are the operations of a field. -/
theorem FieldOk.exists_realizes : ∃ (K : Type) (_ : Field K) (ι : Nat → K), Realizes (fieldView s) ι := by
  let _ := h.elementField
  have hadd (a : Nat) (ha : a < s.fsize.toNat) (b : Nat) (hb : b < s.fsize.toNat) :
      h.element (gadd (fieldView s) a b) = h.element a + h.element b := by
    rw [h.element_of_lt ha, h.element_of_lt hb]
    exact h.element_of_lt (h.gadd_lt a b)
  have hmul (a : Nat) (ha : a < s.fsize.toNat) (b : Nat) (hb : b < s.fsize.toNat) :
      h.element (gmul (fieldView s) a b) = h.element a * h.element b := by
    rw [h.element_of_lt ha, h.element_of_lt hb]
    exact h.element_of_lt (h.gmul_lt a b)
  refine ⟨Element s, h.elementField, h.element,
    { two_le_size := h.two_le_size
      zero := h.element_of_lt h.zero_lt
      one := h.element_of_lt h.two_le_size
      gadd_lt := h.gadd_lt
      gsub_lt := h.gsub_lt
      alpha_lt := fun e => (h.alpha_lt e).2
      add := hadd
      sub := fun a ha b hb => ?_
      mul := hmul
      injective := fun a ha b hb heq => ?_
      surjective := fun x => ⟨x.index, x.lt, h.element_of_lt x.lt⟩ }⟩
  · exact eq_sub_of_add_eq ((hadd _ (h.gsub_lt a b) b hb).symm.trans (congrArg _ (h.gsub_gadd_cancel ha b)))
  · rw [h.element_of_lt ha, h.element_of_lt hb] at heq
    exact congrArg Element.index heq

end Built

end Sys2Proof.Machine
end

section
/-! SUPPORT. What the statements about polynomial commands speak of (spec/41_polynomial.md R185, R188): sums of
elements, the polynomials in windows, and operands that pass the checks. -/

namespace Sys2Proof.Machine

open Sys2Proof

/-! ### Sums, products and powers of elements -/

/-- The sum of the elements `f i` over a list of indices. -/
def elementSum (F : FieldView) (f : Nat → Nat) : List Nat → Nat
  | [] => 0
  | i :: is => gadd F (f i) (elementSum F f is)

theorem mulIndex_eq (s : State) (a b : Nat) : mulIndex s a b = gmul (fieldView s) a b := by
  unfold mulIndex
  split
  · rename_i h0
    exact (if_pos h0).symm
  · rename_i h0
    obtain ⟨ha, hb⟩ := not_or.1 h0
    exact (gmul_eq (fieldView s) ha hb).symm

theorem powIndex_zero (s : State) (a : Nat) : powIndex s a 0 = 1 := by simp [powIndex]

theorem powIndex_succ (s : State) (a i : Nat) :
    powIndex s a (i + 1) = gmul (fieldView s) (powIndex s a i) a := by
  rcases eq_or_ne a 0 with rfl | ha
  · rw [gmul_zero_right]
    rfl
  · have horder : (fieldView s).order = s.fsize.toNat - 1 := rfl
    rw [powIndex, powIndex, if_neg ha, if_neg ha, gmul_eq _ (Nat.succ_ne_zero _) ha, Nat.succ_sub_one, horder,
      Nat.mod_add_mod, Nat.mul_succ]

section Sums

variable {s : State} {K : Type} [Field K] {ι : Nat → K} (hι : Realizes (fieldView s) ι)

include hι

theorem Realizes.elementSum_spec {f : Nat → Nat} {is : List Nat} (hf : ∀ i ∈ is, f i < s.fsize.toNat) :
    elementSum (fieldView s) f is < s.fsize.toNat ∧
      ι (elementSum (fieldView s) f is) = (is.map fun i => ι (f i)).sum := by
  induction is with
  | nil => exact ⟨hι.size_pos, hι.zero⟩
  | cons i is ih =>
    obtain ⟨hlt, hsum⟩ := ih fun j hj => hf j (List.mem_cons_of_mem _ hj)
    refine ⟨hι.gadd_lt _ _, ?_⟩
    rw [elementSum, hι.add _ (hf i List.mem_cons_self) _ hlt, hsum, List.map_cons, List.sum_cons]

omit hι in
theorem isXorSum_elementSum (h : BinaryField s) (f : Nat → Nat) (is : List Nat) :
    IsXorSum s (elementSum (fieldView s) f is) is f := by
  obtain ⟨hfield, hq⟩ := h
  induction is with
  | nil => exact ⟨hfield.zero_lt, fun d _ => hfield.coord_zero d⟩
  | cons i is ih =>
    refine ⟨hfield.gadd_lt _ _, fun d hd => ?_⟩
    rw [elementSum, hfield.coord_gadd _ _ hd, ih.2 d hd, hq, List.map_cons, List.sum_cons]
    exact Nat.add_mod_mod _ _ _

/-- A sum in the field is a sum of digits modulo 2. -/
theorem Realizes.isXorSum (h : BinaryField s) {v : Nat} (hv : v < s.fsize.toNat) {is : List Nat} {f : Nat → Nat}
    (hf : ∀ i ∈ is, f i < s.fsize.toNat) (hsum : ι v = (is.map fun i => ι (f i)).sum) : IsXorSum s v is f := by
  obtain ⟨hlt, heq⟩ := hι.elementSum_spec hf
  rw [hι.injective v hv _ hlt (hsum.trans heq.symm)]
  exact isXorSum_elementSum h f is

theorem Realizes.isXorSum_range (h : BinaryField s) {v : Nat} (hv : v < s.fsize.toNat) {n : Nat} {f : Nat → Nat}
    (hf : ∀ i, f i < s.fsize.toNat) (hsum : ι v = ∑ i ∈ Finset.range n, ι (f i)) : IsXorSum s v (List.range n) f :=
  hι.isXorSum h hv (fun i _ => hf i) hsum

theorem Realizes.mulIndex_lt (a b : Nat) : mulIndex s a b < s.fsize.toNat := mulIndex_eq s a b ▸ hι.gmul_lt a b

theorem Realizes.mulIndex_eq_mul {a b : Nat} (ha : a < s.fsize.toNat) (hb : b < s.fsize.toNat) :
    ι (mulIndex s a b) = ι a * ι b := by
  rw [mulIndex_eq]
  exact hι.mul a ha b hb

theorem Realizes.powIndex_spec {a : Nat} (ha : a < s.fsize.toNat) (i : Nat) :
    powIndex s a i < s.fsize.toNat ∧ ι (powIndex s a i) = ι a ^ i := by
  induction i with
  | zero => exact powIndex_zero s a ▸ ⟨hι.two_le_size, hι.one.trans (pow_zero _).symm⟩
  | succ i ih =>
    rw [powIndex_succ, pow_succ, ← ih.2]
    exact ⟨hι.gmul_lt _ _, hι.mul _ ih.1 a ha⟩

end Sums

/-! ### Polynomials in windows -/

theorem at0_winNats (s : State) (w : Win) (n i : Nat) : at0 (winNats s w n) i = coeff s w n i :=
  at0_tabulate n (winNat s w) i

@[simp] theorem length_winNats (s : State) (w : Win) (n : Nat) : (winNats s w n).length = n :=
  length_tabulate n (winNat s w)

theorem coeffs_winNats {s : State} {w : Win} {n : Nat} (h : ∀ i < n, winNat s w i < s.fsize.toNat) :
    Coeffs (fieldView s) (winNats s w n) := fun c hc => by
  obtain ⟨i, hi, rfl⟩ := mem_tabulate.1 hc
  exact h i hi

theorem trim_winNats_eq_zero_iff (s : State) (w : Win) (n : Nat) :
    trim (winNats s w n) = [0] ↔ ∀ i < n, winNat s w i = 0 := by
  rw [trim_eq_zero_iff]
  refine forall_congr' fun i => ?_
  rw [at0_winNats, coeff]
  simp

/-- Reading down from the top finds the length that trimming leaves (R185). -/
theorem degreeLength_eq (s : State) (w : Win) (n : Nat) : degreeLength s w n = (trim (winNats s w n)).length := by
  induction n with
  | zero => rfl
  | succ n ih =>
    have hlast : winNats s w (n + 1) = winNats s w n ++ [winNat s w n] := by
      simp only [winNats, List.range_succ, List.map_append, List.map_singleton, winNat]
    rw [degreeLength, hlast]
    by_cases h0 : winNat s w n = 0
    · rw [h0, trim_append_zero, ← ih]
      cases n <;> simp [degreeLength]
    · rw [if_neg fun h => h0 h.1, trim_append_ne_zero _ h0, List.length_append, length_winNats]
      rfl

/-- The first words of a window are the list p. -/
def Holds (t : State) (w : Win) (p : List Nat) : Prop := ∀ i < p.length, winNat t w i = at0 p i

theorem Coeffs.at0_lt_word {s : State} {p : List Nat} (hp : Coeffs (fieldView s) p) {i : Nat} (hi : i < p.length) :
    at0 p i < 2 ^ 32 :=
  (at0_eq_getElem hi ▸ hp _ (List.getElem_mem hi)).trans s.fsize.isLt

theorem holds_setWin {s u : State} (hwf : Memory.wf u.win = true) (w : Win) {p : List Nat}
    (hp : Coeffs (fieldView s) p) : Holds (setWin u w p) w p := fun i hi => by
  rw [winNat, setWin_winWord u hwf w p i hi, ← at0_eq_getElem hi, BitVec.toNat_ofNat,
    Nat.mod_eq_of_lt (hp.at0_lt_word hi)]

theorem Holds.coeff {t : State} {w : Win} {p : List Nat} (h : Holds t w p) (k : Nat) :
    coeff t w p.length k = at0 p k := by
  rw [Machine.coeff]
  split
  · exact h k ‹_›
  · exact (at0_of_length_le (by omega)).symm

theorem Holds.trimmed {t : State} {w : Win} {p : List Nat} (h : Holds t w p) (hp : trim p = p) :
    Trimmed t w p.length := by
  have hpos := one_le_length_trim p
  rw [hp] at hpos
  refine ⟨hpos, fun hlt => ?_⟩
  rw [h _ (by omega), ← at0_trim, ← congrArg List.length hp]
  refine at0_last_trim p fun h0 => ?_
  rw [← hp, h0] at hlt
  exact absurd hlt (lt_irrefl 1)

/-- A result in PR0 (R185). -/
theorem putPr0_result {s : State} (hwf : Memory.wf s.win = true) {p : List Nat} (hp : Reduced (fieldView s) p) :
    Holds (complete .noError 0 (putPr0 s p)) .pr0 p ∧ Trimmed (complete .noError 0 (putPr0 s p)) .pr0 p.length :=
  have hholds : Holds (complete .noError 0 (putPr0 s p)) .pr0 p := holds_setWin hwf .pr0 hp.1
  ⟨hholds, hholds.trimmed hp.2⟩

/-- Results in PR0 and PR1, which lie apart. -/
theorem putPr1_putPr0_result {s : State} (hwf : Memory.wf s.win = true) {p r : List Nat}
    (hp : Reduced (fieldView s) p) (hr : Reduced (fieldView s) r) (hlen : p.length ≤ 1024) :
    Holds (complete .noError 0 (putPr1 (putPr0 s p) r)) .pr0 p ∧
      Holds (complete .noError 0 (putPr1 (putPr0 s p) r)) .pr1 r := by
  have hwf0 : Memory.wf (putPr0 s p).win = true := setWin_wf s hwf .pr0 p
  refine ⟨fun i hi => ?_, holds_setWin hwf0 .pr1 hr.1⟩
  have hapart : winWord (setWin (putPr0 s p) .pr1 r) .pr0 i = winWord (putPr0 s p) .pr0 i :=
    setWin_winWord_outside _ hwf0 .pr1 .pr0 r i fun k hk => by simp only [winBase]; omega
  exact (congrArg BitVec.toNat hapart).trans (holds_setWin hwf .pr0 hp.1 i hi)

/-! ### Operands that pass the checks -/

theorem plen_le_of_wf {p : Params} (h : p.wf = true) : p.plen ≤ 1024 := by
  simp [Params.wf] at h
  omega

theorem at0_polyA (s : State) (i : Nat) : at0 (polyA s) i = coeff s .pa s.palen.toNat i := at0_winNats ..

theorem at0_polyB (s : State) (i : Nat) : at0 (polyB s) i = coeff s .pb s.pblen.toNat i := at0_winNats ..

@[simp] theorem length_polyA (s : State) : (polyA s).length = s.palen.toNat := length_winNats ..

@[simp] theorem length_polyB (s : State) : (polyB s).length = s.pblen.toNat := length_winNats ..

theorem degreeLength_polyA (s : State) : degreeLength s .pa s.palen.toNat = (trim (polyA s)).length :=
  degreeLength_eq ..

theorem degreeLength_polyB (s : State) : degreeLength s .pb s.pblen.toNat = (trim (polyB s)).length :=
  degreeLength_eq ..

theorem trim_polyA_eq_zero_iff (s : State) : trim (polyA s) = [0] ↔ ∀ i < s.palen.toNat, winNat s .pa i = 0 :=
  trim_winNats_eq_zero_iff ..

theorem trim_polyB_eq_zero_iff (s : State) : trim (polyB s) = [0] ↔ ∀ i < s.pblen.toNat, winNat s .pb i = 0 :=
  trim_winNats_eq_zero_iff ..

theorem coeffs_polyA {s : State} (h : OperandA s) : Coeffs (fieldView s) (polyA s) := coeffs_winNats h.2

theorem coeffs_polyB {s : State} (h : OperandB s) : Coeffs (fieldView s) (polyB s) := coeffs_winNats h.2

theorem needBinary_ok {s : State} (h : BinaryField s) : needBinary s = .ok () := by
  rw [needBinary, needField_ok h.1.valid, ok_bind, h.2]
  rfl

theorem checkWindow_ok {s : State} {w : Win} {count bound : Nat} (h : ∀ i < count, winNat s w i < bound)
    (source : Nat) : checkWindow s w count bound source = .ok () :=
  failAtFirst_eq_ok.2 fun i hi => decide_eq_false (Nat.not_le.2 (h i hi))

theorem capacity_ok {plen len : Nat} (h : len ≤ plen) (info : Word) :
    failIf (plen < len) .capacity info = .ok () := by
  rw [decide_eq_false (Nat.not_lt.2 h), failIf_false]

theorem needPolyA_ok {s : State} (h : BinaryField s) (ha : OperandA s) : needPolyA s = .ok () := by
  rw [needPolyA, needBinary_ok h, ok_bind, capacity_ok ha.1, ok_bind, checkWindow_ok ha.2]

theorem needPolyAB_ok {s : State} (h : BinaryField s) (ha : OperandA s) (hb : OperandB s) :
    needPolyAB s = .ok () := by
  rw [needPolyAB, needBinary_ok h, ok_bind, capacity_ok ha.1, ok_bind, capacity_ok hb.1, ok_bind, checkWindow_ok ha.2,
    ok_bind, checkWindow_ok hb.2]

/-- The check phase of R188 passes over a field with q = 2 only. -/
theorem fqB_of_needPolyAB {s : State} (h : needPolyAB s = .ok ()) : s.fqB = 2 := by
  obtain ⟨_, hbin, -⟩ := bind_eq_ok.1 h
  obtain ⟨_, -, hq⟩ := bind_eq_ok.1 hbin
  simpa using failIf_eq_ok.1 hq

end Sys2Proof.Machine
end

section
/-! PROOFS. PADD and PSUB (O55), PMUL (O56), PDIVMOD (O57), PEVAL and PDERIV (O58) (spec/41_polynomial.md R188 to R195):
each command ends in its helper function's list, whose coefficients are those of the operation in K[X]. -/

namespace Sys2Proof.Machine

open Sys2Proof
open scoped Polynomial

/-! ### PADD and PSUB -/

/-- In characteristic 2 the digits of a difference are those of the sum (R189), whatever the tables hold. -/
theorem psub_eq_padd {F : FieldView} (hq : F.q = 2) (a b : List Nat) : psub F a b = padd F a b := by
  have hsub (x y : Nat) : gsub F x y = gadd F x y := by
    rw [gsub, gadd, hq]
    exact congrArg (idx F) (tabulate_congr fun d _ => subQ_two)
  rw [psub, padd]
  simp only [hsub]

/-- PSUB is PADD: their checks are the same, and leave only the field with q = 2. -/
theorem exec_psub_eq_padd (s : State) : exec .psub s = exec .padd s := by
  change conclude s (needPolyAB s >>= _) = conclude s (needPolyAB s >>= _)
  rcases hcheck : needPolyAB s with e | ⟨⟩
  · rfl
  · have hq : (fieldView s).q = 2 := congrArg BitVec.toNat (fqB_of_needPolyAB hcheck)
    rw [ok_bind, ok_bind, psub_eq_padd hq]

/-- Settles O55: the coefficients of `polyOf_padd`, in PR0. -/
theorem paddPsubRule : Obligations.PaddPsubRule := by
  unfold Obligations.PaddPsubRule
  refine ⟨fun s hinv hbin hA hB => ?_, exec_psub_eq_padd⟩
  obtain ⟨K, _, ι, hι⟩ := hbin.1.exists_realizes
  have ha := coeffs_polyA hA
  have hb := coeffs_polyB hB
  have hred := hι.reduced_padd (polyA s) (polyB s)
  have hexec : exec .padd s = .next (complete .noError 0 (putPr0 s (padd (fieldView s) (polyA s) (polyB s)))) :=
    conclude_bind_ok (needPolyAB_ok hbin hA hB) _
  obtain ⟨hholds, htrimmed⟩ := putPr0_result hinv.memory hred
  refine ⟨_, _, hexec, (exec_psub_eq_padd s).trans hexec, rfl, rfl, htrimmed, ?_, fun k => ?_⟩
  · refine (length_trim_le _).trans_eq ?_
    rw [length_tabulate, length_polyA, length_polyB]
  · have hsum : ι (at0 (padd (fieldView s) (polyA s) (polyB s)) k) = ι (at0 (polyA s) k) + ι (at0 (polyB s) k) := by
      rw [← hι.coeff_polyOf, hι.polyOf_padd ha hb, Polynomial.coeff_add, hι.coeff_polyOf, hι.coeff_polyOf]
    rw [hholds.coeff, ← at0_polyA, ← at0_polyB]
    refine hι.isXorSum hbin (hι.at0_lt hred.1 k) (fun i _ => ?_) ?_
    · split
      · exact hι.at0_lt ha k
      · exact hι.at0_lt hb k
    · simpa using hsum

/-! ### PMUL -/

/-- A coefficient of a product is the convolution of the coefficients (R186). -/
theorem Realizes.coeff_mul {s : State} {K : Type} [Field K] {ι : Nat → K} (hι : Realizes (fieldView s) ι)
    {a b : List Nat} (ha : Coeffs (fieldView s) a) (hb : Coeffs (fieldView s) b) (k : Nat) :
    (polyOf ι a * polyOf ι b).coeff k = ∑ i ∈ Finset.range (k + 1), ι (mulIndex s (at0 a i) (at0 b (k - i))) := by
  rw [Polynomial.coeff_mul, Finset.Nat.sum_antidiagonal_eq_sum_range_succ_mk]
  refine Finset.sum_congr rfl fun i _ => ?_
  rw [hι.coeff_polyOf, hι.coeff_polyOf, hι.mulIndex_eq_mul (hι.at0_lt ha i) (hι.at0_lt hb (k - i))]

theorem productTooLong_eq_true {plen : Nat} {a b : List Nat} :
    productTooLong plen a b = true ↔ trim a ≠ [0] ∧ trim b ≠ [0] ∧ plen < (trim a).length + (trim b).length - 1 := by
  simp [productTooLong, and_assoc]

/-- Settles O56: the product in K[X] has the coefficients of the convolution and the sum of the degrees. -/
theorem pmulRule : Obligations.PmulRule := by
  unfold Obligations.PmulRule
  intro s hinv hbin hA hB
  have hok := needPolyAB_ok hbin hA hB
  simp only [degreeLength_polyA, degreeLength_polyB, ← trim_polyA_eq_zero_iff, ← trim_polyB_eq_zero_iff]
  refine ⟨fun hne hlong => ?_, fun hshort => ?_⟩
  · obtain ⟨ha0, hb0⟩ := not_or.1 hne
    have hlen : productTooLong s.params.plen (polyA s) (polyB s) = true := productTooLong_eq_true.2 ⟨ha0, hb0, hlong⟩
    exact (conclude_bind_ok hok _).trans (conclude_bind_error (by rw [hlen, failIf_true]) _)
  · obtain ⟨K, _, ι, hι⟩ := hbin.1.exists_realizes
    have ha := coeffs_polyA hA
    have hb := coeffs_polyB hB
    obtain ⟨hred, hpoly⟩ := hι.reduced_polyOf_pmul ha hb
    have hlen : productTooLong s.params.plen (polyA s) (polyB s) = false := by
      refine Bool.eq_false_iff.2 fun hlong => ?_
      obtain ⟨ha0, hb0, hlt⟩ := productTooLong_eq_true.1 hlong
      exact hshort.elim (fun h0 => h0.elim ha0 hb0) fun hle => absurd hlt (Nat.not_lt.2 hle)
    obtain ⟨hholds, htrimmed⟩ := putPr0_result hinv.memory hred
    refine ⟨_, _, (conclude_bind_ok hok _).trans (conclude_bind_ok (by rw [hlen, failIf_false]) _), rfl, rfl, htrimmed,
      fun h0 => ?_, fun hne => ?_, fun k => ?_⟩
    · have hzero : polyOf ι (polyA s) * polyOf ι (polyB s) = 0 :=
        mul_eq_zero.2 (h0.imp (hι.polyOf_eq_zero_iff ha).2 (hι.polyOf_eq_zero_iff hb).2)
      rw [hι.eq_zero_of_polyOf hred (hpoly.trans hzero)]
      rfl
    · obtain ⟨ha0, hb0⟩ := not_or.1 hne
      rw [hι.length_reduced hred, hpoly, Polynomial.natDegree_mul (mt (hι.polyOf_eq_zero_iff ha).1 ha0)
        (mt (hι.polyOf_eq_zero_iff hb).1 hb0)]
      rw [hι.length_trim ha, hι.length_trim hb]
      omega
    · simp only [hholds.coeff, ← at0_polyA, ← at0_polyB]
      refine hι.isXorSum_range hbin (hι.at0_lt hred.1 k) (fun i => hι.mulIndex_lt _ _) ?_
      rw [← hι.coeff_polyOf, hpoly]
      exact hι.coeff_mul ha hb k

/-! ### PDIVMOD -/

section Degrees

variable {K : Type} [Field K] {A B Q R : K[X]} (hA : A = Q * B + R) (hR : R.degree < B.degree)

include hA hR

/-- The degree of a quotient that is not 0 and that of the divisor add up to that of the dividend. -/
theorem quotient_eq_zero_or_natDegree_add : Q = 0 ∨ Q.natDegree + B.natDegree = A.natDegree := by
  have hB : B ≠ 0 := Polynomial.ne_zero_of_degree_gt hR
  refine or_iff_not_imp_left.2 fun hQ => ?_
  have hlt : R.degree < (Q * B).degree := hR.trans_le (mul_comm Q B ▸ Polynomial.degree_le_mul_left B hQ)
  rw [hA, Polynomial.natDegree_add_eq_left_of_degree_lt hlt, Polynomial.natDegree_mul hQ hB]

theorem natDegree_quotient_le : Q.natDegree ≤ A.natDegree := by
  rcases quotient_eq_zero_or_natDegree_add hA hR with hQ | hQ
  · rw [hQ, Polynomial.natDegree_zero]
    exact Nat.zero_le _
  · omega

theorem natDegree_remainder_le : R.natDegree ≤ A.natDegree := by
  rcases quotient_eq_zero_or_natDegree_add hA hR with hQ | hQ
  · rw [hA, hQ, zero_mul, zero_add]
  · have hle := Polynomial.natDegree_le_natDegree hR.le
    omega

end Degrees

/-- A remainder is shorter than its trimmed divisor, or [0] (R191). -/
theorem Realizes.remainder_shorter {F : FieldView} {K : Type} [Field K] {ι : Nat → K} (hι : Realizes F ι)
    {b r : List Nat} (hb : Coeffs F b) (hr : Reduced F r) (hdeg : (polyOf ι r).degree < (polyOf ι b).degree) :
    r = [0] ∨ r.length < (trim b).length := by
  rcases eq_or_ne (polyOf ι r) 0 with h0 | h0
  · exact .inl (hι.eq_zero_of_polyOf hr h0)
  · rw [hι.length_reduced hr, hι.length_trim hb]
    exact .inr (Nat.succ_lt_succ (Polynomial.natDegree_lt_natDegree h0 hdeg))

/-- Settles O57: the division in K[X], whose quotient fits beside the remainder. -/
theorem pdivmodRule : Obligations.PdivmodRule := by
  unfold Obligations.PdivmodRule
  intro s hinv hbin hA hB hdivisor
  obtain ⟨K, _, ι, hι⟩ := hbin.1.exists_realizes
  have ha := coeffs_polyA hA
  have hb := coeffs_polyB hB
  have hb0 : trim (polyB s) ≠ [0] := fun h0 => by
    obtain ⟨i, hi, hne⟩ := hdivisor
    exact hne ((trim_polyB_eq_zero_iff s).1 h0 i hi)
  obtain ⟨hQ, hR, hsum, hdeg⟩ := hι.pdivmod_spec ha hb (mt (hι.polyOf_eq_zero_iff hb).1 hb0)
  have hexec : exec .pdivmod s = .next (complete .noError 0 (putPr1
      (putPr0 s (pdivmod (fieldView s) (polyA s) (polyB s)).1) (pdivmod (fieldView s) (polyA s) (polyB s)).2)) :=
    (conclude_bind_ok (needPolyAB_ok hbin hA hB) _).trans
      (conclude_bind_ok (by rw [beq_eq_false_iff_ne.2 hb0, failIf_false]) _)
  generalize pdivmod (fieldView s) (polyA s) (polyB s) = qr at *
  have hlen : qr.1.length ≤ 1024 := by
    have hdegree := natDegree_quotient_le hsum hdeg
    have hlq := hι.length_reduced hQ
    have hla := hι.length_trim ha
    have htrim := length_trim_le (polyA s)
    have hplen := plen_le_of_wf hinv.params
    have hpalen := hA.1
    rw [length_polyA] at htrim
    omega
  obtain ⟨hholdsQ, hholdsR⟩ := putPr1_putPr0_result hinv.memory hQ hR hlen
  refine ⟨_, _, _, hexec, rfl, rfl, rfl, hholdsQ.trimmed hQ.2, hholdsR.trimmed hR.2,
    fun i hi => hholdsQ i hi ▸ hι.at0_lt hQ.1 i, fun i hi => hholdsR i hi ▸ hι.at0_lt hR.1 i, ?_, fun k => ?_⟩
  · rw [degreeLength_polyB]
    refine (hι.remainder_shorter hb hR hdeg).symm.imp_right fun h0 => ?_
    rw [hholdsR 0 (by rw [h0]; decide), h0]
    exact ⟨rfl, rfl⟩
  · simp only [hholdsQ.coeff, hholdsR.coeff, ← at0_polyA, ← at0_polyB]
    refine hι.isXorSum_range hbin (hι.at0_lt ha k) (fun i => ?_) ?_
    · split
      · exact hι.mulIndex_lt _ _
      · exact hι.at0_lt hR.1 k
    · rw [← hι.coeff_polyOf, hsum, Polynomial.coeff_add, hι.coeff_mul hQ.1 hb, hι.coeff_polyOf,
        Finset.sum_range_succ _ (k + 1), if_neg (by omega)]
      refine congrArg (· + _) (Finset.sum_congr rfl fun i hi => ?_)
      rw [if_pos (Nat.lt_succ_iff.1 (Finset.mem_range.1 hi))]

/-! ### PEVAL and PDERIV -/

/-- The derivative keeps the odd coefficients (R195). -/
theorem at0_pderiv (a : List Nat) (k : Nat) : at0 (pderiv a) k = if k % 2 = 0 then at0 a (k + 1) else 0 := by
  rw [pderiv, at0_trim, at0_tabulate, at0_trim]
  by_cases hk : k < (trim a).length - 1
  · rw [if_pos hk]
    exact if_congr (by omega) rfl rfl
  · rw [if_neg hk, ← at0_trim a, at0_of_length_le (by omega), ite_self]

theorem length_pderiv_le (a : List Nat) : (pderiv a).length ≤ max 1 (a.length - 1) := by
  have htrim := length_trim_le a
  have hlen := length_trim_le
    (tabulate ((trim a).length - 1) fun k => if (k + 1) % 2 = 1 then at0 (trim a) (k + 1) else 0)
  rw [length_tabulate] at hlen
  change (trim (tabulate _ _)).length ≤ _
  omega

theorem Realizes.reduced_pderiv {F : FieldView} {K : Type} [Field K] {ι : Nat → K} (hι : Realizes F ι)
    {a : List Nat} (ha : Coeffs F a) : Reduced F (pderiv a) := by
  refine hι.reduced_trim (coeffs_tabulate fun k => ?_)
  split
  · exact hι.at0_lt (hι.coeffs_trim ha) _
  · exact hι.size_pos

/-- Settles O58: the value of the polynomial in K by `peval_spec`, the derivative by `at0_pderiv`. -/
theorem pevalPderivRule : Obligations.PevalPderivRule := by
  unfold Obligations.PevalPderivRule
  intro s hinv hbin hA
  obtain ⟨K, _, ι, hι⟩ := hbin.1.exists_realizes
  have ha := coeffs_polyA hA
  have hok := needPolyA_ok hbin hA
  refine ⟨fun hx => ?_, ?_⟩
  · have hcheck : checkOpa s = .ok () := by rw [checkOpa, decide_eq_false (Nat.not_le.2 hx), failIf_false]
    obtain ⟨hlt, hval⟩ := hι.peval_spec ha hx
    refine ⟨_, (conclude_bind_ok hok _).trans (conclude_bind_ok hcheck _), ?_⟩
    refine hι.isXorSum_range hbin hlt (fun i => hι.mulIndex_lt _ _) ?_
    rw [hval, eval_polyOf, length_polyA]
    refine Finset.sum_congr rfl fun i hi => ?_
    have hi : i < s.palen.toNat := Finset.mem_range.1 hi
    obtain ⟨hpow, heq⟩ := hι.powIndex_spec hx i
    rw [hι.mulIndex_eq_mul (hA.2 i hi) hpow, heq, at0_polyA, coeff, if_pos hi]
  · obtain ⟨hholds, htrimmed⟩ := putPr0_result hinv.memory (hι.reduced_pderiv ha)
    refine ⟨_, _, conclude_bind_ok hok _, rfl, rfl, htrimmed, ?_, fun k => ?_⟩
    · have hlen := length_pderiv_le (polyA s)
      rwa [length_polyA] at hlen
    · rw [hholds.coeff, at0_pderiv, ← at0_polyA]

end Sys2Proof.Machine
end

section
/-! PROOFS. PGCD and PXGCD (O59): the loop of spec/41_polynomial.md R187 keeps the Bezout identities, the common
divisors and the bounds on the degrees, and its passes are the divisions of `EuclidRun`. -/

namespace Sys2Proof.Machine

open Sys2Proof
open scoped Polynomial

/-! ### The passes of the loop -/

/-- The variables of the loop after i passes (R187). -/
def euclidAt (F : FieldView) (a b : List Nat) (i : Nat) : Euclid := (euclidStep F)^[i] (euclidStart a b)

theorem euclidAt_succ (F : FieldView) (a b : List Nat) (i : Nat) :
    euclidAt F a b (i + 1) = euclidStep F (euclidAt F a b i) := Function.iterate_succ_apply' ..

/-- When passes keep `P` and shorten the divisor r1 or leave [0] there, and more passes are allowed than r1 has
entries, the loop is some number of passes: each from an r1 that is not [0], the last leaving [0]. -/
theorem euclidLoop_eq_iterate {F : FieldView} {P : Euclid → Prop}
    (hstep : ∀ v, P v → v.r1 ≠ [0] → P (euclidStep F v) ∧
      ((euclidStep F v).r1 = [0] ∨ (euclidStep F v).r1.length < v.r1.length))
    {fuel : Nat} {v : Euclid} (hv : P v) (hfuel : v.r1 = [0] ∨ v.r1.length < fuel) :
    ∃ n, euclidLoop F fuel v = (euclidStep F)^[n] v ∧ ((euclidStep F)^[n] v).r1 = [0] ∧
      (∀ i < n, ((euclidStep F)^[i] v).r1 ≠ [0]) ∧ ∀ i ≤ n, P ((euclidStep F)^[i] v) := by
  induction fuel generalizing v with
  | zero =>
    have h0 := hfuel.resolve_right (Nat.not_lt_zero _)
    exact ⟨0, rfl, h0, nofun, fun i hi => Nat.le_zero.1 hi ▸ hv⟩
  | succ fuel ih =>
    rw [euclidLoop]
    by_cases h0 : v.r1 = [0]
    · exact ⟨0, if_pos h0, h0, nofun, fun i hi => Nat.le_zero.1 hi ▸ hv⟩
    · obtain ⟨hP, hshorter⟩ := hstep v hv h0
      have hlt := hfuel.resolve_left h0
      obtain ⟨n, heq, hend, hrun, hkept⟩ := ih hP (hshorter.imp_right fun h => by omega)
      refine ⟨n + 1, (if_neg h0).trans heq, hend, fun i hi => ?_, fun i hi => ?_⟩
      · cases i with
        | zero => exact h0
        | succ i => exact hrun i (by omega)
      · cases i with
        | zero => exact hv
        | succ i => exact hkept i (by omega)

/-! ### What every pass keeps -/

/-- The variables of the loop after some passes over A and B, whose degrees are at most D: every list is reduced, both
remainders are combinations of A and B, their common divisors divide A and B, and the degrees of each remainder and of
the coefficients of the other add up to D at most. -/
structure EuclidInv (F : FieldView) {K : Type} [Field K] (ι : Nat → K) (A B : K[X]) (D : Nat) (v : Euclid) : Prop where
  r0 : Reduced F v.r0
  r1 : Reduced F v.r1
  s0 : Reduced F v.s0
  s1 : Reduced F v.s1
  t0 : Reduced F v.t0
  t1 : Reduced F v.t1
  bezout0 : polyOf ι v.s0 * A + polyOf ι v.t0 * B = polyOf ι v.r0
  bezout1 : polyOf ι v.s1 * A + polyOf ι v.t1 * B = polyOf ι v.r1
  divides : ∀ d, d ∣ polyOf ι v.r0 → d ∣ polyOf ι v.r1 → d ∣ A ∧ d ∣ B
  degree_s0 : (polyOf ι v.s0).natDegree + (polyOf ι v.r1).natDegree ≤ D
  degree_t0 : (polyOf ι v.t0).natDegree + (polyOf ι v.r1).natDegree ≤ D
  degree_s1 : (polyOf ι v.s1).natDegree + (polyOf ι v.r0).natDegree ≤ D
  degree_t1 : (polyOf ι v.t1).natDegree + (polyOf ι v.r0).natDegree ≤ D

/-- The next coefficient keeps the bound on the degrees. -/
theorem natDegree_sub_quotient_mul {K : Type} [Field K] {R₀ R₁ Q R S₀ S₁ : K[X]} {D : Nat} (hR₀ : R₀ = Q * R₁ + R)
    (hdeg : R.degree < R₁.degree) (h₀ : S₀.natDegree + R₁.natDegree ≤ D) (h₁ : S₁.natDegree + R₀.natDegree ≤ D) :
    (S₀ - Q * S₁).natDegree + R₁.natDegree ≤ D := by
  rcases quotient_eq_zero_or_natDegree_add hR₀ hdeg with hQ | hQ
  · rwa [hQ, zero_mul, sub_zero]
  · have hsub := Polynomial.natDegree_sub_le S₀ (Q * S₁)
    have hmul := Polynomial.natDegree_mul_le (p := Q) (q := S₁)
    omega

section Realized

variable {F : FieldView} {K : Type} [Field K] {ι : Nat → K} (hι : Realizes F ι)

include hι

theorem Realizes.euclidInv_start {a b : List Nat} (ha : Coeffs F a) (hb : Coeffs F b) :
    EuclidInv F ι (polyOf ι a) (polyOf ι b) (max (polyOf ι a).natDegree (polyOf ι b).natDegree)
      (euclidStart a b) where
  r0 := hι.reduced_trim ha
  r1 := hι.reduced_trim hb
  s0 := hι.reduced_one
  s1 := hι.reduced_zero
  t0 := hι.reduced_zero
  t1 := hι.reduced_one
  bezout0 := by simp [euclidStart, hι.polyOf_trim, hι.polyOf_one, hι.polyOf_zero]
  bezout1 := by simp [euclidStart, hι.polyOf_trim, hι.polyOf_one, hι.polyOf_zero]
  divides d h0 h1 := by
    simp only [euclidStart, hι.polyOf_trim] at h0 h1
    exact ⟨h0, h1⟩
  degree_s0 := by simp [euclidStart, hι.polyOf_trim, hι.polyOf_one]
  degree_t0 := by simp [euclidStart, hι.polyOf_trim, hι.polyOf_zero]
  degree_s1 := by simp [euclidStart, hι.polyOf_trim, hι.polyOf_zero]
  degree_t1 := by simp [euclidStart, hι.polyOf_trim, hι.polyOf_one]

/-- A pass of the loop keeps the invariant and shortens the divisor. -/
theorem Realizes.euclidInv_step {A B : K[X]} {D : Nat} {v : Euclid} (hv : EuclidInv F ι A B D v) (h1 : v.r1 ≠ [0]) :
    EuclidInv F ι A B D (euclidStep F v) ∧
      ((euclidStep F v).r1 = [0] ∨ (euclidStep F v).r1.length < v.r1.length) := by
  have hr1 : polyOf ι v.r1 ≠ 0 := mt (hι.eq_zero_of_polyOf hv.r1) h1
  obtain ⟨hQ, hR, hsum, hdeg⟩ := hι.pdivmod_spec hv.r0.1 hv.r1.1 hr1
  have hshorter := hι.remainder_shorter hv.r1.1 hR hdeg
  rw [hv.r1.2] at hshorter
  have hS : polyOf ι (euclidStep F v).s1 = polyOf ι v.s0 - polyOf ι (pdivmod F v.r0 v.r1).1 * polyOf ι v.s1 := by
    rw [euclidStep, hι.polyOf_psub hv.s0.1 (hι.reduced_pmul hQ.1 hv.s1.1).1, hι.polyOf_pmul hQ.1 hv.s1.1]
  have hT : polyOf ι (euclidStep F v).t1 = polyOf ι v.t0 - polyOf ι (pdivmod F v.r0 v.r1).1 * polyOf ι v.t1 := by
    rw [euclidStep, hι.polyOf_psub hv.t0.1 (hι.reduced_pmul hQ.1 hv.t1.1).1, hι.polyOf_pmul hQ.1 hv.t1.1]
  have hle := natDegree_remainder_le hsum hdeg
  refine ⟨
    { r0 := hv.r1
      r1 := hR
      s0 := hv.s1
      s1 := hι.reduced_psub _ _
      t0 := hv.t1
      t1 := hι.reduced_psub _ _
      bezout0 := hv.bezout1
      bezout1 := ?_
      divides := fun d h0 h1 => hv.divides d (hsum ▸ dvd_add (dvd_mul_of_dvd_right h0 _) h1) h0
      degree_s0 := (Nat.add_le_add_left hle _).trans hv.degree_s1
      degree_t0 := (Nat.add_le_add_left hle _).trans hv.degree_t1
      degree_s1 := hS ▸ natDegree_sub_quotient_mul hsum hdeg hv.degree_s0 hv.degree_s1
      degree_t1 := hT ▸ natDegree_sub_quotient_mul hsum hdeg hv.degree_t0 hv.degree_t1 }, hshorter⟩
  rw [hS, hT]
  change _ = polyOf ι (pdivmod F v.r0 v.r1).2
  linear_combination hv.bezout0 - polyOf ι (pdivmod F v.r0 v.r1).1 * hv.bezout1 + hsum

/-- The states the loop of `pxgcd` runs through: the invariant holds in each, and the last divisor is [0]. -/
theorem Realizes.euclidLoop_spec {a b : List Nat} (ha : Coeffs F a) (hb : Coeffs F b) :
    ∃ n, euclidLoop F ((trim b).length + 1) (euclidStart a b) = euclidAt F a b n ∧ (euclidAt F a b n).r1 = [0] ∧
      (∀ i < n, (euclidAt F a b i).r1 ≠ [0]) ∧
      ∀ i ≤ n, EuclidInv F ι (polyOf ι a) (polyOf ι b) (max (polyOf ι a).natDegree (polyOf ι b).natDegree)
        (euclidAt F a b i) :=
  euclidLoop_eq_iterate (fun _ hv h1 => hι.euclidInv_step hv h1) (hι.euclidInv_start ha hb)
    (.inr (Nat.lt_succ_self (trim b).length))

/-- The passes of the loop are the divisions of R187. -/
theorem Realizes.euclidRun {a b : List Nat} {A B : K[X]} {D n : Nat} (hend : (euclidAt F a b n).r1 = [0])
    (hrun : ∀ i < n, (euclidAt F a b i).r1 ≠ [0]) (hinv : ∀ i ≤ n, EuclidInv F ι A B D (euclidAt F a b i)) :
    EuclidRun F a b n (fun i => (euclidAt F a b i).r0)
      (fun i => (pdivmod F (euclidAt F a b i).r0 (euclidAt F a b i).r1).1)
      (fun i => (euclidAt F a b i).s0) (fun i => (euclidAt F a b i).t0) := by
  have hr0 (i : Nat) : (euclidAt F a b (i + 1)).r0 = (euclidAt F a b i).r1 := by rw [euclidAt_succ, euclidStep]
  have hs0 (i : Nat) : (euclidAt F a b (i + 1)).s0 = (euclidAt F a b i).s1 := by rw [euclidAt_succ, euclidStep]
  have ht0 (i : Nat) : (euclidAt F a b (i + 1)).t0 = (euclidAt F a b i).t1 := by rw [euclidAt_succ, euclidStep]
  have hr2 (i : Nat) : (euclidAt F a b (i + 2)).r0 = (pdivmod F (euclidAt F a b i).r0 (euclidAt F a b i).r1).2 := by
    rw [hr0, euclidAt_succ, euclidStep]
  have hdiv (i : Nat) (hi : i < n) := hι.pdivmod_spec (hinv i hi.le).r0.1 (hinv i hi.le).r1.1
    (mt (hι.eq_zero_of_polyOf (hinv i hi.le).r1) (hrun i hi))
  exact
    { start := ⟨rfl, rfl, rfl, rfl, rfl, rfl⟩
      divides := fun i hi => by
        obtain ⟨hQ, hR, hsum, hdeg⟩ := hdiv i hi
        have hshorter := hι.remainder_shorter (hinv i hi.le).r1.1 hR hdeg
        rw [(hinv i hi.le).r1.2] at hshorter
        simp only [hr2, hr0]
        refine ⟨hrun i hi, hι.eq_of_polyOf_eq (hinv i hi.le).r0 (hι.reduced_padd _ _) ?_, hshorter⟩
        rw [hι.polyOf_padd (hι.reduced_pmul hQ.1 (hinv i hi.le).r1.1).1 hR.1, hι.polyOf_pmul hQ.1 (hinv i hi.le).r1.1]
        exact hsum
      coefficients := fun i _ => by
        simp only [hs0, ht0]
        simp only [euclidAt_succ, euclidStep, and_self]
      elements := fun i hi => by
        obtain ⟨hQ, hR, -, -⟩ := hdiv i hi
        simp only [hr2]
        exact ⟨fun c hc => (List.mem_append.1 hc).elim (hQ.1 c) (hR.1 c), hQ.2, hR.2⟩
      ends := (hr0 n).trans hend }

end Realized

/-! ### The monic result -/

/-- The last step of R187: a remainder that is not [0] is made monic, and its coefficients are multiplied along. -/
def monicResult (F : FieldView) (v : Euclid) : List Nat × List Nat × List Nat :=
  if v.r0 = [0] then (v.r0, v.s0, v.t0)
  else
    let c := ginv F (at0 v.r0 (v.r0.length - 1))
    (pscale F v.r0 c, pscale F v.s0 c, pscale F v.t0 c)

theorem pxgcd_eq (F : FieldView) (a b : List Nat) :
    pxgcd F a b = monicResult F (euclidLoop F ((trim b).length + 1) (euclidStart a b)) := rfl

theorem pxgcd_zero (F : FieldView) {a b : List Nat} (ha : trim a = [0]) (hb : trim b = [0]) :
    pxgcd F a b = ([0], [1], [0]) := by
  simp [pxgcd, euclidStart, euclidLoop, ha, hb]

/-- The result r stands for c times the polynomial of p. -/
def ScaledBy (F : FieldView) {K : Type} [Field K] (ι : Nat → K) (c : K) (p r : List Nat) : Prop :=
  Reduced F r ∧ polyOf ι r = Polynomial.C c * polyOf ι p

section Realized

variable {F : FieldView} {K : Type} [Field K] {ι : Nat → K} (hι : Realizes F ι)

include hι

/-- The last step multiplies the three lists by one element, the inverse of the leading coefficient of a remainder that
is not 0. -/
theorem Realizes.monicResult_scaled {v : Euclid} (hr : Reduced F v.r0) (hs : Reduced F v.s0) (ht : Reduced F v.t0) :
    ∃ c : K, c ≠ 0 ∧ (v.r0 ≠ [0] → c * (polyOf ι v.r0).leadingCoeff = 1) ∧ ScaledBy F ι c v.r0 (monicResult F v).1 ∧
      ScaledBy F ι c v.s0 (monicResult F v).2.1 ∧ ScaledBy F ι c v.t0 (monicResult F v).2.2 := by
  by_cases h0 : v.r0 = [0]
  · have hone {p : List Nat} (hp : Reduced F p) : ScaledBy F ι 1 p p := ⟨hp, by rw [Polynomial.C_1, one_mul]⟩
    rw [monicResult, if_pos h0]
    exact ⟨1, one_ne_zero, fun hne => absurd h0 hne, hone hr, hone hs, hone ht⟩
  · have hlead := hι.at0_lt hr.1 (v.r0.length - 1)
    have hlead0 : at0 v.r0 (v.r0.length - 1) ≠ 0 := by
      rw [← hr.2] at h0 ⊢
      exact at0_last_trim v.r0 h0
    have hinv := hι.inv_mul hlead hlead0
    have hscale {p : List Nat} (hp : Reduced F p) :
        ScaledBy F ι (ι (ginv F (at0 v.r0 (v.r0.length - 1)))) p (pscale F p (ginv F (at0 v.r0 (v.r0.length - 1)))) :=
      ⟨hι.reduced_pscale _ _, hι.polyOf_pscale hp.1 (hι.alpha_lt _)⟩
    rw [monicResult, if_neg h0]
    exact ⟨_, left_ne_zero_of_mul_eq_one hinv, fun _ => hι.leadingCoeff_polyOf hr ▸ hinv, hscale hr, hscale hs,
      hscale ht⟩

/-- A divisor of a polynomial has a list of cofactors. -/
theorem Realizes.exists_pmul_eq_trim {a g : List Nat} (ha : Coeffs F a) (hg : Coeffs F g)
    (hdvd : polyOf ι g ∣ polyOf ι a) : ∃ u, pmul F u g = trim a := by
  obtain ⟨f, hf⟩ := hdvd
  obtain ⟨u, hu, rfl⟩ := hι.exists_polyOf_eq f
  refine ⟨u, hι.eq_of_polyOf_eq (hι.reduced_pmul hu hg) (hι.reduced_trim ha) ?_⟩
  rw [hι.polyOf_pmul hu hg, hι.polyOf_trim, hf, mul_comm]

/-- The list of a monic polynomial ends in 1. -/
theorem Realizes.getLast?_of_monic {g : List Nat} (hg : Reduced F g) (hmonic : (polyOf ι g).leadingCoeff = 1) :
    g.getLast? = some 1 := by
  have hlen := hι.length_reduced hg
  have hlast : at0 g (g.length - 1) = 1 := by
    refine hι.injective _ (hι.at0_lt hg.1 _) 1 hι.two_le_size ?_
    rw [← hι.leadingCoeff_polyOf hg, hmonic, hι.one]
  rw [List.getLast?_eq_getElem?, List.getElem?_eq_getElem (by omega), ← at0_eq_getElem, hlast]

omit hι in
theorem ScaledBy.natDegree_le {c : K} {p r : List Nat} (h : ScaledBy F ι c p r) :
    (polyOf ι r).natDegree ≤ (polyOf ι p).natDegree := h.2 ▸ Polynomial.natDegree_C_mul_le _ _

end Realized

/-- Settles O59: the lists of the last pass by `EuclidInv`, made monic by `monicResult_scaled`. -/
theorem pgcdPxgcdRule : Obligations.PgcdPxgcdRule := by
  unfold Obligations.PgcdPxgcdRule
  intro s hbin hA hB
  obtain ⟨K, _, ι, hι⟩ := hbin.1.exists_realizes
  have ha := coeffs_polyA hA
  have hb := coeffs_polyB hB
  have hok := needPolyAB_ok hbin hA hB
  obtain ⟨n, hloop, hend, hrun, hinv⟩ := hι.euclidLoop_spec ha hb
  have hv := hinv n le_rfl
  have hresult : pxgcd (fieldView s) (polyA s) (polyB s) =
      monicResult (fieldView s) (euclidAt (fieldView s) (polyA s) (polyB s) n) := by rw [pxgcd_eq, hloop]
  obtain ⟨c, hc, hmonic, hg, hx, hy⟩ := hι.monicResult_scaled hv.r0 hv.s0 hv.t0
  obtain ⟨hdvdA, hdvdB⟩ := hv.divides _ dvd_rfl (by rw [hend, hι.polyOf_zero]; exact dvd_zero _)
  rw [← Polynomial.C_mul_dvd hc, ← hg.2] at hdvdA hdvdB
  have hlen {p r : List Nat} (hr : ScaledBy (fieldView s) ι c p r)
      (hp : (polyOf ι p).natDegree ≤ max (polyOf ι (polyA s)).natDegree (polyOf ι (polyB s)).natDegree) :
      trim r = r ∧ r.length ≤ max (trim (polyA s)).length (trim (polyB s)).length := by
    refine ⟨hr.1.2, ?_⟩
    rw [hι.length_reduced hr.1, hι.length_trim ha, hι.length_trim hb]
    have hle := hr.natDegree_le
    omega
  refine ⟨_, _, _, conclude_bind_ok hok _, conclude_bind_ok hok _, ?bezout, ?dvdA, ?dvdB, ?lengths, ?run, ?zero, ?monic⟩
  all_goals rw [hresult]
  case bezout =>
    refine hι.eq_of_polyOf_eq (hι.reduced_padd _ _) hg.1 ?_
    rw [hι.polyOf_padd (hι.reduced_pmul hx.1.1 ha).1 (hι.reduced_pmul hy.1.1 hb).1, hι.polyOf_pmul hx.1.1 ha,
      hι.polyOf_pmul hy.1.1 hb, hg.2, hx.2, hy.2, ← hv.bezout0]
    ring
  case dvdA => exact hι.exists_pmul_eq_trim ha hg.1.1 hdvdA
  case dvdB => exact hι.exists_pmul_eq_trim hb hg.1.1 hdvdB
  case lengths =>
    simp only [List.forall_mem_cons, List.not_mem_nil, false_implies, implies_true, and_true]
    exact ⟨hlen hg ((Nat.le_add_left ..).trans hv.degree_s1), hlen hx ((Nat.le_add_right ..).trans hv.degree_s0),
      hlen hy ((Nat.le_add_right ..).trans hv.degree_t0)⟩
  case run =>
    refine ⟨n, _, _, _, _, hι.euclidRun hend hrun hinv, ?_⟩
    unfold monicResult
    split
    · exact ⟨rfl, rfl, rfl⟩
    · exact ⟨rfl, rfl, rfl⟩
  case zero =>
    intro h0
    rw [← hresult, pxgcd_zero _ (trim_eq_zero_iff_forall_mem.2 fun c hc => h0 c (List.mem_append_left _ hc))
      (trim_eq_zero_iff_forall_mem.2 fun c hc => h0 c (List.mem_append_right _ hc))]
    exact ⟨rfl, rfl, rfl⟩
  case monic =>
    rintro ⟨d, hd, hd0⟩
    refine hι.getLast?_of_monic hg.1 ?_
    rw [hg.2, Polynomial.leadingCoeff_mul, Polynomial.leadingCoeff_C]
    refine hmonic fun h0 => ?_
    have hg0 : polyOf ι (monicResult (fieldView s) (euclidAt (fieldView s) (polyA s) (polyB s) n)).1 = 0 := by
      rw [hg.2, h0, hι.polyOf_zero, mul_zero]
    rw [hg0, zero_dvd_iff] at hdvdA hdvdB
    rcases List.mem_append.1 hd with hd | hd
    · exact hd0 (trim_eq_zero_iff_forall_mem.1 ((hι.polyOf_eq_zero_iff ha).1 hdvdA) d hd)
    · exact hd0 (trim_eq_zero_iff_forall_mem.1 ((hι.polyOf_eq_zero_iff hb).1 hdvdB) d hd)

end Sys2Proof.Machine
end

section
/-! SUPPORT. The built code: H times G is 0, the codeword of an information word, words on the wire with their punctured
and parity positions, and the received word (spec/42_code_encoder.md R200 to R214). -/

namespace Sys2Proof.Machine

open Sys2Proof

/-! ### Sums -/

theorem sumBelow_congr {n : Nat} {f g : Nat → Nat} (h : ∀ j < n, f j = g j) : sumBelow n f = sumBelow n g :=
  congrArg List.sum (tabulate_congr h)

theorem sumBelow_add (a b : Nat) (f : Nat → Nat) :
    sumBelow (a + b) f = sumBelow a f + sumBelow b fun j => f (a + j) := by
  simp only [sumBelow_eq_sum, Finset.sum_range_add]

theorem sumBelow_succ (n : Nat) (f : Nat → Nat) : sumBelow (n + 1) f = sumBelow n f + f n := by
  simp only [sumBelow_eq_sum, Finset.sum_range_succ]

/-- Terms that are 0 at the front of a sum can be left out. -/
theorem sumBelow_skip {a n : Nat} {f : Nat → Nat} (ha : a ≤ n) (h : ∀ j < a, f j = 0) :
    sumBelow n f = sumBelow (n - a) fun j => f (a + j) := by
  have hfront : sumBelow a f = 0 := by
    rw [sumBelow_eq_sum]
    exact Finset.sum_eq_zero fun j hj => h j (Finset.mem_range.1 hj)
  obtain ⟨b, rfl⟩ := Nat.exists_eq_add_of_le ha
  rw [sumBelow_add, hfront, Nat.zero_add, Nat.add_sub_cancel_left]

/-- A column of the identity picks one term. -/
theorem sumBelow_mul_indicator {n i : Nat} (hi : i < n) (f : Nat → Nat) :
    sumBelow n (fun j => f j * if j = i then 1 else 0) = f i := by
  simp [sumBelow_eq_sum, hi]

/-- A vector orthogonal to every row modulo q is orthogonal to every combination of the rows. -/
theorem sumBelow_combination {n k q : Nat} {f a : Nat → Nat} {g : Nat → Nat → Nat}
    (h : ∀ l < k, sumBelow n (fun j => f j * g l j) % q = 0) :
    sumBelow n (fun j => f j * (sumBelow k (fun l => a l * g l j) % q)) % q = 0 := by
  simp only [sumBelow_eq_sum] at h ⊢
  have hsum : ∑ j ∈ Finset.range n, f j * ((∑ l ∈ Finset.range k, a l * g l j) % q) ≡ 0 [MOD q] := calc
    _ ≡ ∑ j ∈ Finset.range n, f j * ∑ l ∈ Finset.range k, a l * g l j [MOD q] :=
      Nat.ModEq.sum fun j _ => (Nat.mod_modEq _ q).mul_left (f j)
    _ = ∑ l ∈ Finset.range k, a l * ∑ j ∈ Finset.range n, f j * g l j := by
      simp only [Finset.mul_sum, Nat.mul_left_comm (f _)]
      exact Finset.sum_comm
    _ ≡ 0 [MOD q] := Nat.ModEq.sum_zero fun l hl =>
      Nat.modEq_zero_iff_dvd.2 ((Nat.dvd_of_mod_eq_zero (h l (Finset.mem_range.1 hl))).mul_left (a l))
  exact Nat.mod_eq_zero_of_dvd (Nat.modEq_zero_iff_dvd.1 hsum)

/-! ### Entries of G and of the words -/

theorem genAt_info {k j : Nat} (hj : j < k) (q : Nat) (H : List (List Nat)) (l : Nat) :
    genAt q k H l j = if l = j then 1 else 0 := if_pos hj

theorem genAt_parity (q k : Nat) (H : List (List Nat)) (l j : Nat) :
    genAt q k H l (k + j) = negQ q (matAt H j l) := by
  rw [genAt, if_neg (by omega), Nat.add_sub_cancel_left]

theorem at0_take_of_lt {p : List Nat} {n i : Nat} (hi : i < n) : at0 (p.take n) i = at0 p i := by
  rw [at0, at0, List.getD_eq_getElem?_getD, List.getD_eq_getElem?_getD, List.getElem?_take_of_lt hi]

theorem at0_padZeros_of_lt {a i : Nat} (w : List Nat) (hi : i < a) : at0 (padZeros a w) i = 0 := by
  rw [padZeros, at0, List.getD_append _ _ _ _ (by simpa using hi), List.getD_replicate _ hi]

theorem at0_padZeros_add (a : Nat) (w : List Nat) (i : Nat) : at0 (padZeros a w) (a + i) = at0 w i := by
  rw [padZeros, at0, List.getD_append_right _ _ _ _ (by simp), List.length_replicate, Nat.add_sub_cancel_left, at0]

theorem isZero_iff {S : List Nat} : isZero S = true ↔ ∀ i < S.length, at0 S i = 0 := by
  rw [isZero, List.all_eq_true, List.forall_mem_iff_getElem]
  exact forall₂_congr fun i hi => by rw [beq_iff_eq, at0_eq_getElem hi]

theorem at0_encodeWord (s : State) (wf : List Nat) {j : Nat} (hj : j < s.cnB.toNat) :
    at0 (encodeWord (codeView s) wf) j =
      sumBelow s.ckB.toNat (fun i => at0 wf i * genAt s.fqB.toNat s.ckB.toNat (codeView s).H i j) % s.fqB.toNat := by
  rw [encodeWord, at0_tabulate]
  exact if_pos hj

/-- The wire word of an Extended code has the parity symbol behind the n symbols (R200, R210). -/
theorem wireWord_extended {s : State} (hvar : s.cvarB = 2) (y : List Nat) (p : Nat) :
    wireWord (codeView s) y p = tabulate s.cnB.toNat (at0 y) ++ [p] := by
  simp [wireWord, codeView, hvar]

theorem wireLen_extended {s : State} (hvar : s.cvarB = 2) : (codeView s).wireLen = s.cnB.toNat + 1 := by
  rw [← length_wireWord _ [] 0, wireWord_extended hvar, List.length_append, length_tabulate, List.length_singleton]

theorem at0_wireWord_parity {s : State} (hvar : s.cvarB = 2) (y : List Nat) (p : Nat) :
    at0 (wireWord (codeView s) y p) s.cnB.toNat = p := by
  rw [wireWord_extended hvar, at0_append_singleton, length_tabulate, if_pos rfl]

theorem rowTimes_congr {s : State} {word word' : Nat → Nat} (heq : ∀ j < coveredLen s, word j = word' j) (i : Nat) :
    rowTimes s i word = rowTimes s i word' := by
  rw [rowTimes, rowTimes, sumBelow_congr fun j hj => by rw [heq j hj]]

theorem at0_wireIn {s : State} {j : Nat} (hj : j < (codeView s).wireLen) : at0 (wireIn s) j = winNat s .inp j :=
  (at0_winNats ..).trans (if_pos hj)

theorem erasedAt_iff {s : State} {j : Nat} (hj : j < (codeView s).wireLen) :
    erasedAt (codeView s) (wireIn s) (erasList s) j = true ↔ IsErased s j := by
  rw [erasedAt, Bool.or_eq_true, decide_eq_true_iff, at0_wireIn hj, List.contains_iff_mem, erasList]
  exact or_congr_right mem_tabulate

/-- The known word holds the received symbols with erasures read as 0 (R213). -/
theorem at0_knownWord {s : State} {j : Nat} (hj : j < (codeView s).wireLen) :
    at0 (knownWord (codeView s) (wireIn s) (erasList s)) j = receivedSymbol s j := by
  rw [knownWord, at0_tabulate, if_pos hj, at0_wireIn hj]
  exact if_congr (erasedAt_iff hj) rfl rfl

/-- The punctured positions of the padded word are 0 (R213). -/
theorem at0_paddedWord_punctured {s : State} {j : Nat} (hj : j < s.csB.toNat) :
    at0 (paddedWord (codeView s) (wireIn s) (erasList s)) j = 0 := at0_padZeros_of_lt _ hj

section Code

variable {s : State} (h : CodeOk s)

include h

/-! ### H and G -/

theorem CodeOk.length_eq : s.cnB.toNat = s.ckB.toNat + s.fmB.toNat := by
  obtain ⟨-, hkn, hm⟩ := h.dims
  omega

/-- The columns of H behind those of P are the identity (R203). -/
theorem CodeOk.matAt_H_identity {i j : Nat} (hi : i < s.fmB.toNat) (hj : j < s.fmB.toNat) :
    matAt (codeView s).H i (s.ckB.toNat + j) = if j = i then 1 else 0 := by
  have hn := h.length_eq
  rw [h.matAt_H (by omega) (by omega), if_neg (by omega)]
  exact if_congr (by omega) rfl rfl

/-- H is orthogonal to G (R205): the product of row i of H and row l of G is `P[i][l] - P[i][l]`. -/
theorem CodeOk.orthogonal {i l : Nat} (hi : i < s.fmB.toNat) (hl : l < s.ckB.toNat) :
    sumBelow s.cnB.toNat (fun j => matAt (codeView s).H i j *
      genAt s.fqB.toNat s.ckB.toNat (codeView s).H l j) % s.fqB.toNat = 0 := by
  have hinfo : sumBelow s.ckB.toNat (fun j => matAt (codeView s).H i j *
      genAt s.fqB.toNat s.ckB.toNat (codeView s).H l j) = matAt (codeView s).H i l := by
    rw [← sumBelow_mul_indicator hl (matAt (codeView s).H i)]
    refine sumBelow_congr fun j hj => ?_
    rw [genAt_info hj, if_congr eq_comm rfl rfl]
  have hparity : sumBelow s.fmB.toNat (fun j => matAt (codeView s).H i (s.ckB.toNat + j) *
      genAt s.fqB.toNat s.ckB.toNat (codeView s).H l (s.ckB.toNat + j)) =
      negQ s.fqB.toNat (matAt (codeView s).H i l) := by
    rw [← sumBelow_mul_indicator hi fun j => negQ s.fqB.toNat (matAt (codeView s).H j l)]
    refine sumBelow_congr fun j hj => ?_
    rw [h.matAt_H_identity hi hj, genAt_parity, Nat.mul_comm]
  rw [h.length_eq, sumBelow_add, hinfo, hparity, add_negQ h.field.prime.pos]

/-! ### The codeword of an information word -/

theorem CodeOk.at0_encodeWord_lt (wf : List Nat) {j : Nat} (hj : j < s.cnB.toNat) :
    at0 (encodeWord (codeView s) wf) j < s.fqB.toNat := by
  rw [at0_encodeWord s wf hj]
  exact Nat.mod_lt _ h.field.prime.pos

/-- The code is systematic: the first k symbols of the codeword are the information word (R210). -/
theorem CodeOk.at0_encodeWord_info {wf : List Nat} {j : Nat} (hj : j < s.ckB.toNat) (hwf : at0 wf j < s.fqB.toNat) :
    at0 (encodeWord (codeView s) wf) j = at0 wf j := by
  rw [at0_encodeWord s wf (hj.trans h.dims.2.1), sumBelow_congr fun i _ => by rw [genAt_info hj],
    sumBelow_mul_indicator hj, Nat.mod_eq_of_lt hwf]

/-- Every row of H sums a codeword to 0: it is a combination of rows of G. -/
theorem CodeOk.parity_encodeWord (wf : List Nat) {i : Nat} (hi : i < s.fmB.toNat) :
    sumBelow s.cnB.toNat (fun j => matAt (codeView s).H i j * at0 (encodeWord (codeView s) wf) j) %
      s.fqB.toNat = 0 := by
  rw [sumBelow_congr fun j hj => by rw [at0_encodeWord s wf hj]]
  exact sumBelow_combination fun l hl => h.orthogonal hi hl

/-! ### Words on the wire -/

theorem CodeOk.csB_eq_zero (hvar : s.cvarB ≠ 1) : s.csB.toNat = 0 := by
  rw [h.shortening.1 hvar]
  rfl

theorem CodeOk.csB_lt : s.csB.toNat < s.ckB.toNat := by
  rcases eq_or_ne s.cvarB 1 with hvar | hvar
  · exact (h.shortening.2 hvar).trans_le (min_le_right _ _)
  · rw [h.csB_eq_zero hvar]
    exact h.dims.1

/-- The information length K' (R200). -/
theorem CodeOk.infoLen_eq : (codeView s).infoLen = s.ckB.toNat - s.csB.toNat := by
  rcases eq_or_ne s.cvarB 1 with hvar | hvar
  · exact if_pos (congrArg BitVec.toNat hvar)
  · rw [h.csB_eq_zero hvar]
    exact if_neg (mt BitVec.eq_of_toNat_eq hvar)

theorem CodeOk.infoLen_le_coveredLen : (codeView s).infoLen ≤ coveredLen s := by
  rw [h.infoLen_eq, coveredLen]
  exact Nat.sub_le_sub_right h.dims.2.1.le _

theorem CodeOk.csB_extended (hvar : s.cvarB = 2) : s.csB.toNat = 0 := h.csB_eq_zero (by rw [hvar]; decide)

theorem CodeOk.coveredLen_extended (hvar : s.cvarB = 2) : coveredLen s = s.cnB.toNat := by
  rw [coveredLen, h.csB_extended hvar, Nat.sub_zero]

/-- The wire word of a Classic or Shortened code is the padded word without its punctured positions (R210). -/
theorem CodeOk.wireWord_eq (hvar : s.cvarB ≠ 2) (y : List Nat) (p : Nat) :
    wireWord (codeView s) y p = tabulate (coveredLen s) fun j => at0 y (s.csB.toNat + j) := by
  rcases eq_or_ne s.cvarB 1 with h1 | h1
  · exact if_pos (congrArg BitVec.toNat h1)
  · rw [coveredLen, h.csB_eq_zero h1]
    simp only [Nat.zero_add]
    exact (if_neg (mt BitVec.eq_of_toNat_eq h1)).trans (if_neg (mt BitVec.eq_of_toNat_eq hvar))

theorem CodeOk.wireLen_eq (hvar : s.cvarB ≠ 2) : (codeView s).wireLen = coveredLen s := by
  rw [← length_wireWord _ [] 0, h.wireWord_eq hvar, length_tabulate]

theorem CodeOk.coveredLen_le_wireLen : coveredLen s ≤ (codeView s).wireLen := by
  rcases eq_or_ne s.cvarB 2 with hvar | hvar
  · rw [h.coveredLen_extended hvar, wireLen_extended hvar]
    exact Nat.le_succ _
  · rw [h.wireLen_eq hvar]

theorem CodeOk.infoLen_le_wireLen : (codeView s).infoLen ≤ (codeView s).wireLen :=
  h.infoLen_le_coveredLen.trans h.coveredLen_le_wireLen

/-- The symbols of the wire word that H covers are those of the padded word behind its punctured positions. -/
theorem CodeOk.at0_wireWord (y : List Nat) (p : Nat) {j : Nat} (hj : j < coveredLen s) :
    at0 (wireWord (codeView s) y p) j = at0 y (s.csB.toNat + j) := by
  rcases eq_or_ne s.cvarB 2 with hvar | hvar
  · rw [h.coveredLen_extended hvar] at hj
    rw [wireWord_extended hvar, at0_append_singleton, length_tabulate, if_neg hj.ne, at0_tabulate, if_pos hj,
      h.csB_extended hvar, Nat.zero_add]
  · rw [h.wireWord_eq hvar, at0_tabulate, if_pos hj]

/-- The product of a row of H and a padded word is that of the covered wire symbols. -/
theorem CodeOk.rowTimes_padded {y : List Nat} (hzero : ∀ j < s.csB.toNat, at0 y j = 0) (i : Nat) :
    sumBelow s.cnB.toNat (fun j => matAt (codeView s).H i j * at0 y j) % s.fqB.toNat =
      rowTimes s i fun j => at0 y (s.csB.toNat + j) := by
  have hle : s.csB.toNat ≤ s.cnB.toNat := (h.csB_lt.trans h.dims.2.1).le
  rw [sumBelow_skip hle fun j hj => by rw [hzero j hj, Nat.mul_zero]]
  rfl

/-- A padded word of digits that H sums to 0, and an Extended one to 0 with its parity symbol, is a code word on the
wire. -/
theorem CodeOk.isCodeword_wireWord {y : List Nat} {p : Nat} (hdigit : ∀ j < s.cnB.toNat, at0 y j < s.fqB.toNat)
    (hzero : ∀ j < s.csB.toNat, at0 y j = 0)
    (hrow : ∀ i < s.fmB.toNat, sumBelow s.cnB.toNat (fun j => matAt (codeView s).H i j * at0 y j) % s.fqB.toNat = 0)
    (hparity : s.cvarB = 2 → p < s.fqB.toNat ∧ (sumBelow s.cnB.toNat (at0 y) + p) % s.fqB.toNat = 0) :
    IsCodeword s (at0 (wireWord (codeView s) y p)) := by
  refine ⟨fun j hj => ?digits, fun i hi => ?rows, fun hvar => ?sum⟩
  case digits =>
    rcases Nat.lt_or_ge j (coveredLen s) with hlt | hge
    · rw [h.at0_wireWord y p hlt]
      exact hdigit _ (Nat.add_lt_of_lt_sub' hlt)
    · rcases eq_or_ne s.cvarB 2 with hvar | hvar
      · rw [h.coveredLen_extended hvar] at hge
        rw [wireLen_extended hvar] at hj
        obtain rfl : j = s.cnB.toNat := by omega
        rw [at0_wireWord_parity hvar]
        exact (hparity hvar).1
      · exact absurd (hj.trans_eq (h.wireLen_eq hvar)) (Nat.not_lt.2 hge)
  case rows =>
    show rowTimes s i _ = 0
    rw [rowTimes_congr fun j hj => h.at0_wireWord y p hj, ← h.rowTimes_padded hzero]
    exact hrow i hi
  case sum =>
    have hsum : sumBelow s.cnB.toNat (at0 (wireWord (codeView s) y p)) = sumBelow s.cnB.toNat (at0 y) :=
      sumBelow_congr fun j hj => by
        rw [h.at0_wireWord y p (hj.trans_eq (h.coveredLen_extended hvar).symm), h.csB_extended hvar, Nat.zero_add]
    rw [sumBelow_succ, hsum, at0_wireWord_parity hvar]
    exact (hparity hvar).2

/-- Whether a word is a code word depends on its wire symbols only. -/
theorem CodeOk.isCodeword_congr {word word' : Nat → Nat} (hcode : IsCodeword s word)
    (heq : ∀ j < (codeView s).wireLen, word' j = word j) : IsCodeword s word' := by
  obtain ⟨hdigits, hrows, hsum⟩ := hcode
  refine ⟨fun j hj => ?_, fun i hi => ?_, fun hvar => ?_⟩
  · rw [heq j hj]
    exact hdigits j hj
  · exact (rowTimes_congr (fun j hj => heq j (hj.trans_le h.coveredLen_le_wireLen)) i).trans (hrows i hi)
  · rw [sumBelow_congr fun j hj => heq j (hj.trans_eq (wireLen_extended hvar).symm)]
    exact hsum hvar

/-! ### The received word and its syndrome -/

theorem CodeOk.at0_paddedWord {j : Nat} (hj : j < coveredLen s) :
    at0 (paddedWord (codeView s) (wireIn s) (erasList s)) (s.csB.toNat + j) = receivedSymbol s j := calc
  _ = at0 ((knownWord (codeView s) (wireIn s) (erasList s)).take (coveredLen s)) j := at0_padZeros_add _ _ _
  _ = at0 (knownWord (codeView s) (wireIn s) (erasList s)) j := at0_take_of_lt hj
  _ = receivedSymbol s j := at0_knownWord (hj.trans_le h.coveredLen_le_wireLen)

/-- The syndrome of a padded word by the covered wire symbols (R214). -/
theorem CodeOk.at0_syndrome {y : List Nat} (hzero : ∀ j < s.csB.toNat, at0 y j = 0) {i : Nat} (hi : i < s.fmB.toNat) :
    at0 (syndrome (codeView s) y) i = rowTimes s i fun j => at0 y (s.csB.toNat + j) := by
  rw [← h.rowTimes_padded hzero, syndrome, at0_tabulate]
  exact if_pos (hi.trans_eq h.dims.2.2.symm)

/-- Digits are indices of elements, and so fit a window word. -/
theorem CodeOk.holds_setWin_digits {u : State} (hwf : Memory.wf u.win = true) (w : Win) {p : List Nat}
    (hp : ∀ i < p.length, at0 p i < s.fqB.toNat) : Holds (setWin u w p) w p := by
  have hsize : s.fqB.toNat ≤ s.fsize.toNat := by
    rw [h.field.size]
    exact Nat.le_self_pow (Nat.ne_zero_of_lt h.field.degree.1) _
  refine holds_setWin (s := s) hwf w fun c hc => ?_
  obtain ⟨i, hi, rfl⟩ := List.getElem_of_mem hc
  exact (at0_eq_getElem hi ▸ hp i hi).trans_le hsize

end Code

end Sys2Proof.Machine
end

section
/-! PROOFS. The linear code: the checks of CBUILD, ENC, SYND and HDEC in their order (O37), and the code that CBUILD
builds (O38) (spec/42_code_encoder.md R201 to R206, R210, R213). -/

namespace Sys2Proof.Machine

open Sys2Proof

/-! ### The check phase of the code commands -/

theorem needCode_ok {s : State} (hv : s.status.fvalid = true) (hc : s.status.cvalid = true) : needCode s = .ok () := by
  rw [needCode, needField_ok hv, ok_bind, hc, Bool.not_true, failIf_false]

/-- A range check names the first word of a window that is not below the bound (R403). -/
theorem checkWindow_error {s : State} {w : Win} {count bound i : Nat} (hi : i < count) (hbad : bound ≤ winNat s w i)
    (hfirst : ∀ j < i, winNat s w j < bound) (source : Nat) :
    checkWindow s w count bound source = .error { code := .operandRange, info := pairInfo source i } :=
  failAtFirst_eq_error.2 ⟨i, hi, decide_eq_true hbad, fun j hj => decide_eq_false (Nat.not_le.2 (hfirst j hj)), rfl⟩

theorem checkErasures_capacity {s : State} (h : s.params.nbuf < s.neras.toNat) :
    checkErasures s = .error { code := .capacity, info := 5 } := by
  rw [checkErasures, decide_eq_true h, failIf_true, error_bind]

theorem checkErasures_eq_checkWindow {s : State} (h : s.neras.toNat ≤ s.params.nbuf) :
    checkErasures s = checkWindow s .eras s.neras.toNat (codeView s).wireLen 8 := by
  rw [checkErasures, capacity_ok h, ok_bind]

/-- SYND and HDEC begin with the checks of R213. -/
theorem exec_checkErasures_error {s : State} {c : Instr} {code : ErrCode} {info : Word} (hc : c ∈ [Instr.synd, .hdec])
    (hcode : needCode s = .ok ()) (h : checkErasures s = .error { code := code, info := info }) :
    exec c s = .next (complete code info s) := by
  simp only [List.mem_cons, List.not_mem_nil, or_false] at hc
  rcases hc with rfl | rfl
  · exact (conclude_bind_ok hcode _).trans (conclude_bind_error h _)
  · exact (conclude_bind_ok hcode _).trans (conclude_bind_error h _)

/-! ### The checks of CBUILD -/

/-- The checks of CBUILD do not read what it clears on start. -/
theorem checkCodeConfig_clearCode (s : State) : checkCodeConfig (clearCode s) = checkCodeConfig s := rfl

/-- A check of CBUILD that fails ends it with the code cleared. -/
theorem exec_cbuild_error {s : State} {c : ErrCode} {info : Word}
    (h : checkCodeConfig s = .error { code := c, info := info }) :
    exec .cbuild s = .next (complete c info (clearCode s)) :=
  conclude_bind_error ((checkCodeConfig_clearCode s).trans h) _

/-- The checks of CBUILD on the variant and the shortening count, its last ones. -/
def checkVariant (s : State) : Except CmdError Unit := do
  failIf (2 < s.cvar.toNat) .construction 4
  failIf (s.cvar == 1 && decide (min s.cn.toNat s.ck.toNat ≤ s.cs.toNat)) .invalidShortening s.cs

/-- The checks of CBUILD behind those on the dimensions. -/
def checkCodeLength (s : State) : Except CmdError Unit := do
  failIf ((s.fsize.toNat - 1) / (s.fqB.toNat - 1) < s.cn.toNat) .construction 3
  failIf (s.params.nbuf - 1 < s.cn.toNat) .capacity 2
  checkVariant s

theorem checkCodeConfig_eq {s : State} (hv : s.status.fvalid = true) (hk : 1 ≤ s.ck.toNat)
    (hn : s.ck.toNat < s.cn.toNat) (hm : s.cn.toNat - s.ck.toNat = s.fmB.toNat) :
    checkCodeConfig s = checkCodeLength s := by
  rw [checkCodeConfig, needField_ok hv, ok_bind, decide_eq_false (Nat.not_lt.2 hk), decide_eq_false (Nat.not_le.2 hn),
    Bool.or_self, failIf_false, ok_bind, bne_eq_false_iff_eq.2 hm, failIf_false, ok_bind]
  rfl

theorem checkCodeLength_eq {s : State} (hbound : s.cn.toNat ≤ (s.fsize.toNat - 1) / (s.fqB.toNat - 1))
    (hdepth : s.cn.toNat ≤ s.params.nbuf - 1) : checkCodeLength s = checkVariant s := by
  rw [checkCodeLength, decide_eq_false (Nat.not_lt.2 hbound), failIf_false, ok_bind,
    decide_eq_false (Nat.not_lt.2 hdepth), failIf_false, ok_bind]

/-- The checks of CBUILD pass on every configuration that R201 allows. -/
theorem checkCodeConfig_ok {s : State} (hv : s.status.fvalid = true) (hc : CodeConfigOk s) :
    checkCodeConfig s = .ok () := by
  obtain ⟨hk, hn, hm⟩ := hc.dims
  have hshort : (s.cvar == 1 && decide (min s.cn.toNat s.ck.toNat ≤ s.cs.toNat)) = false :=
    Bool.and_eq_false_imp.2 fun h1 => decide_eq_false (Nat.not_le.2 (hc.shortening (beq_iff_eq.1 h1)))
  rw [checkCodeConfig_eq hv hk hn hm, checkCodeLength_eq hc.bound hc.depth, checkVariant,
    decide_eq_false (Nat.not_lt.2 hc.variant), failIf_false, ok_bind, hshort, failIf_false]

/-- Settles O37: each clause makes one check fail and those before it pass. -/
theorem codeErrors : Obligations.CodeErrors := by
  unfold Obligations.CodeErrors
  intro s hv
  refine ⟨fun hdims => exec_cbuild_error ?dimensions, fun hk hn => ⟨fun hm => exec_cbuild_error ?degree,
    fun hm => ⟨fun hbound => exec_cbuild_error ?bound, fun hbound => ⟨fun hdepth => exec_cbuild_error ?depth,
    fun hdepth => ⟨fun hvar => exec_cbuild_error ?variant, fun hvar hshort => exec_cbuild_error ?shortening⟩⟩⟩⟩,
    fun hc i hi hbad hfirst => ?enc, fun hc c hmem => ⟨fun hcap => ?capacity, fun hcap i hi hbad hfirst => ?erasures⟩⟩
  case dimensions =>
    rw [checkCodeConfig, needField_ok hv, ok_bind, ← Bool.decide_or, decide_eq_true hdims, failIf_true, error_bind]
  case degree =>
    rw [checkCodeConfig, needField_ok hv, ok_bind, decide_eq_false (Nat.not_lt.2 hk),
      decide_eq_false (Nat.not_le.2 hn), Bool.or_self, failIf_false, ok_bind, bne_iff_ne.2 hm, failIf_true, error_bind]
  case bound =>
    rw [checkCodeConfig_eq hv hk hn hm, checkCodeLength, decide_eq_true hbound, failIf_true, error_bind]
  case depth =>
    rw [checkCodeConfig_eq hv hk hn hm, checkCodeLength, decide_eq_false (Nat.not_lt.2 hbound), failIf_false, ok_bind,
      decide_eq_true hdepth, failIf_true, error_bind]
  case variant =>
    rw [checkCodeConfig_eq hv hk hn hm, checkCodeLength_eq hbound hdepth, checkVariant, decide_eq_true hvar,
      failIf_true, error_bind]
  case shortening =>
    rw [checkCodeConfig_eq hv hk hn hm, checkCodeLength_eq hbound hdepth, checkVariant, hvar, decide_eq_true hshort]
    rfl
  case enc =>
    exact (conclude_bind_ok (needCode_ok hv hc) _).trans (conclude_bind_error (checkWindow_error hi hbad hfirst 5) _)
  case capacity => exact exec_checkErasures_error hmem (needCode_ok hv hc) (checkErasures_capacity hcap)
  case erasures =>
    refine exec_checkErasures_error hmem (needCode_ok hv hc) ?_
    rw [checkErasures_eq_checkWindow hcap]
    exact checkWindow_error hi hbad hfirst 8

/-! ### CBUILD past its checks -/

/-- The check of R205 passes when what CBUILD commits is a built code. -/
theorem checkOrthogonal_ok {s : State} (h : CodeOk (commitCode s (newParity s))) :
    checkOrthogonal s (newParity s) = .ok () := by
  have hnone : orthoFailure s.fqB.toNat s.cn.toNat s.ck.toNat (newParity s) = none :=
    firstSome_eq_none.2 fun i hi => firstSome_eq_none.2 fun l hl =>
      if_pos (h.orthogonal (hi.trans_eq h.dims.2.2) hl)
  rw [checkOrthogonal, hnone]

/-- The state CBUILD commits. -/
def builtCode (s : State) : State := commitCode (clearCode s) (newParity (clearCode s))

theorem codeOk_builtCode {s : State} (h : FieldOk s) (hc : CodeConfigOk s) : CodeOk (builtCode s) :=
  codeOk_commitCode (s := clearCode s) (h.of_same (sameBuilt_refl s).1 rfl)
    ⟨hc.dims, hc.bound, hc.depth, hc.variant, hc.shortening⟩

theorem exec_cbuild_ok {s : State} (h : FieldOk s) (hc : CodeConfigOk s) :
    exec .cbuild s = .next (complete .noError 0 (builtCode s)) :=
  (conclude_bind_ok ((checkCodeConfig_clearCode s).trans (checkCodeConfig_ok h.valid hc)) _).trans
    (conclude_bind_ok (checkOrthogonal_ok (codeOk_builtCode h hc)) _)

/-- Settles O38: CBUILD commits a built code, whose H and G the lemmas on a built code describe. -/
theorem cbuildBuilds : Obligations.CbuildBuilds := by
  unfold Obligations.CbuildBuilds
  intro s h hk hkn hm hbound hdepth hvar hshort
  have hc : CodeConfigOk s := ⟨⟨hk, hkn, hm⟩, hbound, hdepth, hvar, hshort⟩
  have hcode := codeOk_builtCode h hc
  exact ⟨_, exec_cbuild_ok h hc, rfl, rfl, rfl, rfl, rfl, rfl, fun i hi j hj => hcode.matAt_H (hi.trans_eq hm.symm) hj,
    fun i hi l hl => hcode.orthogonal hi hl⟩

end Sys2Proof.Machine
end

section
/-! PROOFS. ENC writes the systematic code word (O39), SYND the syndrome of the received word (O40)
(spec/42_code_encoder.md R210, R213 to R215). -/

namespace Sys2Proof.Machine

open Sys2Proof

/-! ### ENC -/

theorem overallParity_spec {C : CodeView} (hq : 0 < C.q) (y : List Nat) :
    overallParity C y < C.q ∧ (sumBelow C.n (at0 y) + overallParity C y) % C.q = 0 := by
  refine ⟨negQ_lt hq, ?_⟩
  rw [← Nat.mod_add_mod]
  exact add_negQ hq

/-- The padded information word: 0 at the punctured positions, INFO behind them. -/
theorem at0_paddedInfo (s : State) {i : Nat} (hi : i < (codeView s).infoLen) :
    at0 (padZeros (codeView s).s (infoIn s)) (s.csB.toNat + i) = winNat s .info i :=
  (at0_padZeros_add ..).trans ((at0_winNats ..).trans (if_pos hi))

/-- The wire word that ENC writes (R210). -/
def encWire (s : State) : List Nat :=
  wireWord (codeView s) (codeword s) (overallParity (codeView s) (codeword s))

section Code

variable {s : State} (h : CodeOk s)

include h

theorem CodeOk.at0_codeword_punctured {j : Nat} (hj : j < s.csB.toNat) : at0 (codeword s) j = 0 := by
  have hzero : at0 (padZeros (codeView s).s (infoIn s)) j = 0 := at0_padZeros_of_lt _ hj
  have hlt := hzero.trans_lt h.field.prime.pos
  exact (h.at0_encodeWord_info (hj.trans h.csB_lt) hlt).trans hzero

theorem CodeOk.at0_codeword_info {i : Nat} (hi : i < (codeView s).infoLen) (hinfo : winNat s .info i < s.fqB.toNat) :
    at0 (codeword s) (s.csB.toNat + i) = winNat s .info i := by
  have hword := at0_paddedInfo s hi
  rw [h.infoLen_eq] at hi
  exact (h.at0_encodeWord_info (by omega) (hword.trans_lt hinfo)).trans hword

/-- The wire word of the codeword of INFO is a code word. -/
theorem CodeOk.isCodeword_encWire : IsCodeword s (at0 (encWire s)) :=
  h.isCodeword_wireWord (fun _ => h.at0_encodeWord_lt _) (fun _ => h.at0_codeword_punctured)
    (fun _ => h.parity_encodeWord _) fun _ => overallParity_spec h.field.prime.pos _

/-- The first K' symbols of the wire word are INFO. -/
theorem CodeOk.at0_encWire_info {i : Nat} (hi : i < (codeView s).infoLen) (hinfo : winNat s .info i < s.fqB.toNat) :
    at0 (encWire s) i = winNat s .info i :=
  (h.at0_wireWord _ _ (hi.trans_le h.infoLen_le_coveredLen)).trans (h.at0_codeword_info hi hinfo)

end Code

@[simp] theorem length_encWire (s : State) : (encWire s).length = (codeView s).wireLen := length_wireWord ..

theorem exec_enc_ok {s : State} (h : CodeOk s) (hinfo : ∀ i < (codeView s).infoLen, winNat s .info i < s.fqB.toNat) :
    exec .enc s = .next (complete .noError 0 (putResult0 (setWin s .out (encWire s)) (codeView s).wireLen)) :=
  (conclude_bind_ok (needCode_ok h.field.valid h.valid) _).trans (conclude_bind_ok (checkWindow_ok hinfo 5) _)

/-- Settles O39: OUT holds the wire word of the codeword of INFO. -/
theorem encRule : Obligations.EncRule := by
  unfold Obligations.EncRule
  intro s hinv h hinfo
  have hcode := h.isCodeword_encWire
  have hlen {i : Nat} (hi : i < (codeView s).wireLen) : i < (encWire s).length := hi.trans_eq (length_encWire s).symm
  have hout : Holds (setWin s .out (encWire s)) .out (encWire s) :=
    h.holds_setWin_digits hinv.memory .out fun i hi => hcode.1 i (length_encWire s ▸ hi)
  refine ⟨_, exec_enc_ok h hinfo, rfl, rfl, h.isCodeword_congr hcode fun j hj => hout j (hlen hj), fun i hi => ?_⟩
  exact (hout i (hlen (hi.trans_le h.infoLen_le_wireLen))).trans (h.at0_encWire_info hi (hinfo i hi))

/-! ### SYND -/

/-- The syndrome of the received word (R214). -/
def receivedSyndrome (s : State) : List Nat := syndrome (codeView s) (paddedWord (codeView s) (wireIn s) (erasList s))

theorem checkErasures_ok {s : State} (h : ErasuresOk s) : checkErasures s = .ok () :=
  (checkErasures_eq_checkWindow h.1).trans (checkWindow_ok h.2 8)

/-- What SYND writes to RESULT1 (R215). -/
def overallSum (s : State) : Nat :=
  if (codeView s).extended then
    sumBelow ((codeView s).n + 1) (at0 (knownWord (codeView s) (wireIn s) (erasList s))) % (codeView s).q
  else 0

theorem exec_synd_ok {s : State} (h : CodeOk s) (heras : ErasuresOk s) :
    exec .synd s = .next (complete .noError 0 { setWin s .syn (receivedSyndrome s) with
      result0 := if isZero (receivedSyndrome s) then 0 else 1, result1 := toWord (overallSum s) }) :=
  (conclude_bind_ok (needCode_ok h.field.valid h.valid) _).trans (conclude_bind_ok (checkErasures_ok heras) _)

/-- The overall sum of an Extended word, its parity symbol included, is that of the received symbols. -/
theorem toWord_overallSum (s : State) : toWord (overallSum s) =
    if s.cvarB = 2 then toWord (sumBelow (s.cnB.toNat + 1) (receivedSymbol s) % s.fqB.toNat) else 0 := by
  by_cases hvar : s.cvarB = 2
  · have hext : (codeView s).extended = true := beq_iff_eq.2 (congrArg BitVec.toNat hvar)
    have hsum : sumBelow ((codeView s).n + 1) (at0 (knownWord (codeView s) (wireIn s) (erasList s))) =
        sumBelow (s.cnB.toNat + 1) (receivedSymbol s) :=
      sumBelow_congr fun j hj => at0_knownWord (hj.trans_eq (wireLen_extended hvar).symm)
    rw [if_pos hvar, overallSum, if_pos hext, hsum]
    rfl
  · have hext : ¬ (codeView s).extended = true := fun h => hvar (BitVec.eq_of_toNat_eq (beq_iff_eq.1 h))
    rw [if_neg hvar, overallSum, if_neg hext]
    rfl

/-- Settles O40: SYN holds the syndrome of the padded word, row by row that of the received symbols. -/
theorem syndRule : Obligations.SyndRule := by
  unfold Obligations.SyndRule
  intro s hinv h heras
  have hlen : (receivedSyndrome s).length = s.fmB.toNat := (length_syndrome ..).trans h.dims.2.2
  have hrow {i : Nat} (hi : i < s.fmB.toNat) : at0 (receivedSyndrome s) i = rowTimes s i (receivedSymbol s) :=
    (h.at0_syndrome (fun _ => at0_paddedWord_punctured) hi).trans (rowTimes_congr (fun _ => h.at0_paddedWord) i)
  have hout : Holds (setWin s .syn (receivedSyndrome s)) .syn (receivedSyndrome s) :=
    h.holds_setWin_digits hinv.memory .syn fun i hi => by
      rw [hrow (hi.trans_eq hlen)]
      exact Nat.mod_lt _ h.field.prime.pos
  rw [Holds, hlen] at hout
  have hzero : isZero (receivedSyndrome s) = true ↔ ∀ i < s.fmB.toNat, at0 (receivedSyndrome s) i = 0 := by
    rw [isZero_iff, hlen]
  exact ⟨_, exec_synd_ok h heras, rfl, fun i hi => (hout i hi).trans (hrow hi),
    if_congr (hzero.trans (forall₂_congr fun i hi => Eq.congr_left (hout i hi).symm)) rfl rfl, toWord_overallSum s⟩

end Sys2Proof.Machine
end

section
/-! SUPPORT. The columns of H (spec/42_code_encoder.md R202): none is 0 and no two are multiples of each other, so that a
syndrome is a multiple of one column at most. -/

namespace Sys2Proof.Machine

open Sys2Proof

/-! ### Multiples of an element by a digit -/

section Multiples

variable {s : State} {K : Type} [Field K] {ι : Nat → K} (hι : Realizes (fieldView s) ι) (h : FieldOk s)

include hι h

/-- Multiples by a count are taken digit by digit. -/
theorem Realizes.exists_multiple {a : Nat} (ha : a < s.fsize.toNat) (n : Nat) :
    ∃ b < s.fsize.toNat, ι b = n * ι a ∧ ∀ d < s.fmB.toNat, coord s b d = n * coord s a d % s.fqB.toNat := by
  induction n with
  | zero => exact ⟨0, h.zero_lt, by rw [hι.zero, Nat.cast_zero, zero_mul], fun d _ => by simp [h.coord_zero]⟩
  | succ n ih =>
    obtain ⟨b, hb, hval, hdigits⟩ := ih
    refine ⟨gadd (fieldView s) b a, h.gadd_lt _ _, ?_, fun d hd => ?_⟩
    · rw [hι.add b hb a ha, hval]
      push_cast
      ring
    · rw [h.coord_gadd _ _ hd, hdigits d hd, Nat.mod_add_mod, Nat.succ_mul]

theorem Realizes.characteristic_eq_zero : (s.fqB.toNat : K) = 0 := by
  obtain ⟨b, hb, hval, hdigits⟩ := hι.exists_multiple h h.two_le_size s.fqB.toNat
  have hb0 : b = 0 := h.eq_of_coord_eq hb h.zero_lt fun d hd => by
    rw [hdigits d hd, Nat.mul_mod_right, h.coord_zero]
  rw [← mul_one (s.fqB.toNat : K), ← hι.one, ← hval, hb0, hι.zero]

/-- Fermat's theorem on the digits, as elements of the field. -/
theorem Realizes.digit_pow_eq_one {a : Nat} (ha : 1 ≤ a) (hlt : a < s.fqB.toNat) :
    (a : K) ^ (s.fqB.toNat - 1) = 1 := by
  have hfermat : a ^ (s.fqB.toNat - 1) % s.fqB.toNat = 1 % s.fqB.toNat := by
    have hcop : Nat.Coprime a s.fqB.toNat := (Nat.coprime_of_lt_prime (by omega) hlt h.prime).symm
    rw [← Nat.totient_prime h.prime]
    exact Nat.ModEq.pow_totient hcop
  rw [Nat.mod_eq_of_lt h.prime.one_lt] at hfermat
  rw [← Nat.cast_pow, ← Nat.div_add_mod (a ^ (s.fqB.toNat - 1)) s.fqB.toNat, hfermat, Nat.cast_add, Nat.cast_mul,
    hι.characteristic_eq_zero h, zero_mul, zero_add, Nat.cast_one]

end Multiples

/-- Powers of x with small exponents are not multiples of each other by a digit: the (q - 1)-th powers of digits are 1, and
those of the two powers of x are distinct. -/
theorem FieldOk.exponent_eq_of_multiples {s : State} (h : FieldOk s) {a b e f : Nat} (ha : 1 ≤ a) (haq : a < s.fqB.toNat)
    (hb : 1 ≤ b) (hbq : b < s.fqB.toNat) (he : e * (s.fqB.toNat - 1) < s.fsize.toNat - 1)
    (hf : f * (s.fqB.toNat - 1) < s.fsize.toNat - 1)
    (heq : ∀ d < s.fmB.toNat, a * coord s (e + 1) d % s.fqB.toNat = b * coord s (f + 1) d % s.fqB.toNat) : e = f := by
  obtain ⟨K, _, ι, hι⟩ := h.exists_realizes
  have hpos : 0 < s.fqB.toNat - 1 := Nat.sub_pos_of_lt h.prime.one_lt
  have hlt {e : Nat} (he : e * (s.fqB.toNat - 1) < s.fsize.toNat - 1) : e + 1 < s.fsize.toNat := by
    have := Nat.le_mul_of_pos_right e hpos
    omega
  obtain ⟨u, hu, huval, hudigits⟩ := hι.exists_multiple h (hlt he) a
  obtain ⟨v, hv, hvval, hvdigits⟩ := hι.exists_multiple h (hlt hf) b
  have huv : u = v := h.eq_of_coord_eq hu hv fun d hd => by rw [hudigits d hd, hvdigits d hd, heq d hd]
  have hpow : ι (e + 1) ^ (s.fqB.toNat - 1) = ι (f + 1) ^ (s.fqB.toNat - 1) := by
    have hmul : (a : K) * ι (e + 1) = b * ι (f + 1) := by rw [← huval, ← hvval, huv]
    have hq := congrArg (· ^ (s.fqB.toNat - 1)) hmul
    simpa only [mul_pow, hι.digit_pow_eq_one h ha haq, hι.digit_pow_eq_one h hb hbq, one_mul] using hq
  obtain ⟨hlte, hpowe⟩ := hι.powIndex_spec (hlt he) (s.fqB.toNat - 1)
  obtain ⟨hltf, hpowf⟩ := hι.powIndex_spec (hlt hf) (s.fqB.toNat - 1)
  have hindex := hι.injective _ hlte _ hltf (by rw [hpowe, hpowf, hpow])
  simp only [powIndex, Nat.add_one_ne_zero, if_false, Nat.add_sub_cancel, Nat.mod_eq_of_lt he, Nat.mod_eq_of_lt hf,
    Nat.add_right_cancel_iff] at hindex
  exact Nat.eq_of_mul_eq_mul_right hpos hindex

/-! ### The columns of H -/

section Code

variable {s : State} (h : CodeOk s)

include h

theorem CodeOk.columnExponent_lt {j : Nat} (hj : j < s.cnB.toNat) :
    columnExponent s.fmB.toNat s.cnB.toNat s.ckB.toNat j < s.cnB.toNat := by
  have hn := h.length_eq
  unfold columnExponent
  split <;> omega

/-- The element that column j of H holds. -/
theorem CodeOk.columnElement_lt {j : Nat} (hj : j < s.cnB.toNat) :
    columnExponent s.fmB.toNat s.cnB.toNat s.ckB.toNat j + 1 < s.fsize.toNat :=
  Nat.add_lt_of_lt_sub ((h.columnExponent_lt hj).trans_le h.length_le_order)

/-- Column j of H holds the digits of the power of x that R203 assigns it. -/
theorem CodeOk.matAt_H_eq_coord {i j : Nat} (hi : i < s.fmB.toNat) (hj : j < s.cnB.toNat) :
    matAt (codeView s).H i j =
      coord s (columnExponent s.fmB.toNat s.cnB.toNat s.ckB.toNat j + 1) (s.fmB.toNat - 1 - i) := by
  have hH : (codeView s).H = parityMatrix (fieldView s) s.cnB.toNat s.ckB.toNat := by simp [codeView, h.parity]
  rw [hH, parityMatrix, matAt_tabulate, if_pos ⟨hi.trans_eq h.dims.2.2.symm, hj⟩, coord,
    ← alpha_of_lt_order ((h.columnExponent_lt hj).trans_le h.length_le_order)]
  rfl

/-- Columns of H with a common multiple by nonzero digits are the same column. -/
theorem CodeOk.column_eq_of_multiples {j j' a a' : Nat} (hj : j < s.cnB.toNat) (hj' : j' < s.cnB.toNat) (ha : 1 ≤ a)
    (haq : a < s.fqB.toNat) (ha' : 1 ≤ a') (haq' : a' < s.fqB.toNat)
    (heq : ∀ i < s.fmB.toNat,
      a * matAt (codeView s).H i j % s.fqB.toNat = a' * matAt (codeView s).H i j' % s.fqB.toNat) : j = j' := by
  have hn := h.length_eq
  have hbound {e : Nat} (he : e < s.cnB.toNat) : e * (s.fqB.toNat - 1) < s.fsize.toNat - 1 :=
    (Nat.mul_lt_mul_of_pos_right he (Nat.sub_pos_of_lt h.field.prime.one_lt)).trans_le
      ((Nat.mul_le_mul_right _ h.bound).trans (Nat.div_mul_le_self _ _))
  have hsame := h.field.exponent_eq_of_multiples ha haq ha' haq' (hbound (h.columnExponent_lt hj))
      (hbound (h.columnExponent_lt hj')) fun d hd => by
    have hi := heq (s.fmB.toNat - 1 - d) (by omega)
    rwa [h.matAt_H_eq_coord (by omega) hj, h.matAt_H_eq_coord (by omega) hj',
      show s.fmB.toNat - 1 - (s.fmB.toNat - 1 - d) = d by omega] at hi
  unfold columnExponent at hsame
  split at hsame <;> split at hsame <;> omega

theorem CodeOk.matAt_H_lt {i j : Nat} (hi : i < s.fmB.toNat) (hj : j < s.cnB.toNat) :
    matAt (codeView s).H i j < s.fqB.toNat := by
  rw [h.matAt_H_eq_coord hi hj]
  exact h.field.coord_lt (h.columnElement_lt hj)

/-- No column of H is 0. -/
theorem CodeOk.exists_matAt_H_ne_zero {j : Nat} (hj : j < s.cnB.toNat) :
    ∃ i < s.fmB.toNat, matAt (codeView s).H i j ≠ 0 := by
  by_contra! hzero
  refine absurd (h.field.eq_of_coord_eq (h.columnElement_lt hj) h.field.zero_lt fun d hd => ?_) (Nat.succ_ne_zero _)
  have hi := hzero (s.fmB.toNat - 1 - d) (by omega)
  rwa [h.matAt_H_eq_coord (by omega) hj, show s.fmB.toNat - 1 - (s.fmB.toNat - 1 - d) = d by omega,
    ← h.field.coord_zero d] at hi

/-- A nonzero multiple of a column is not 0. -/
theorem CodeOk.exists_multiple_ne_zero {j a : Nat} (hj : j < s.cnB.toNat) (ha : 1 ≤ a) (haq : a < s.fqB.toNat) :
    ∃ i < s.fmB.toNat, a * matAt (codeView s).H i j % s.fqB.toNat ≠ 0 := by
  obtain ⟨i, hi, hne⟩ := h.exists_matAt_H_ne_zero hj
  refine ⟨i, hi, fun hzero => ?_⟩
  rcases h.field.prime.dvd_mul.1 (Nat.dvd_of_mod_eq_zero hzero) with hdvd | hdvd
  · exact absurd (Nat.le_of_dvd ha hdvd) (Nat.not_le.2 haq)
  · exact absurd (Nat.le_of_dvd (Nat.pos_of_ne_zero hne) hdvd) (Nat.not_le.2 (h.matAt_H_lt hi hj))

end Code

/-! ### The column a syndrome is a multiple of -/

theorem SyndromeMatches.ne_zero {s : State} (h : CodeOk s) {S : Nat → Nat} {j a : Nat} (hm : SyndromeMatches s S j a) :
    ∃ i < s.fmB.toNat, S i ≠ 0 := by
  obtain ⟨hj, ha, haq, hS⟩ := hm
  obtain ⟨i, hi, hne⟩ := h.exists_multiple_ne_zero hj ha haq
  exact ⟨i, hi, (hS i hi).trans_ne hne⟩

/-- A syndrome is a multiple of one column at most, by one digit (R248). -/
theorem SyndromeMatches.unique {s : State} (h : CodeOk s) {S : Nat → Nat} {j a j' a' : Nat}
    (hm : SyndromeMatches s S j a) (hm' : SyndromeMatches s S j' a') : j = j' ∧ a = a' := by
  obtain ⟨hj, ha, haq, hS⟩ := hm
  obtain ⟨hj', ha', haq', hS'⟩ := hm'
  obtain rfl : j = j' := h.column_eq_of_multiples hj hj' ha haq ha' haq' fun i hi => (hS i hi).symm.trans (hS' i hi)
  obtain ⟨i, hi, hne⟩ := h.exists_matAt_H_ne_zero hj
  have hcop : Nat.gcd s.fqB.toNat (matAt (codeView s).H i j) = 1 :=
    Nat.coprime_of_lt_prime hne (h.matAt_H_lt hi hj) h.field.prime
  have hmod : a * matAt (codeView s).H i j ≡ a' * matAt (codeView s).H i j [MOD s.fqB.toNat] :=
    (hS i hi).symm.trans (hS' i hi)
  exact ⟨rfl, (Nat.ModEq.cancel_right_of_coprime hcop hmod).eq_of_lt_of_lt haq haq'⟩

end Sys2Proof.Machine
end

section
/-! SUPPORT. The elimination of spec/43_syndrome_decoder.md R244 over the field of the digits: each column keeps the solutions
of the system and leaves a unit column, and a column without a pivot depends on those before it. -/

namespace Sys2Proof.Machine

open Sys2Proof

/-! ### Solutions of the system -/

/-- Row i of M, e + 1 entries, times the vector x, modulo q. -/
def rowDot (q e : Nat) (M : Nat → Nat → Nat) (x : Nat → ZMod q) (i : Nat) : ZMod q :=
  ∑ d ∈ Finset.range (e + 1), (M i d : ZMod q) * x d

/-- Every row of M takes the vector x to 0: its first r rows. -/
def RowsVanish (q r e : Nat) (M : Nat → Nat → Nat) (x : Nat → ZMod q) : Prop := ∀ i < r, rowDot q e M x i = 0

/-- The first c columns of M are those of the identity, modulo q. -/
def UnitColumns (q r c : Nat) (M : Nat → Nat → Nat) : Prop :=
  ∀ d < c, ∀ i < r, (M i d : ZMod q) = if i = d then 1 else 0

/-- No row of M from c on has an entry in column c: the search of R244 finds no pivot. -/
def NoPivot (r c : Nat) (M : Nat → Nat → Nat) : Prop := ∀ i, c ≤ i → i < r → M i c = 0

section Column

variable {q r e c : Nat} {M M' : Nat → Nat → Nat}

/-- The elimination of a column as equations over the field of the digits. -/
theorem EliminatesColumn.cast (h : EliminatesColumn q r e c M M') :
    ∃ (piv : Nat) (f : ZMod q), c ≤ piv ∧ piv < r ∧ (M piv c : ZMod q) * f = 1 ∧
      (∀ d ≤ e, (M' c d : ZMod q) = M piv d * f) ∧
      ∀ i < r, i ≠ c → ∀ d ≤ e, (M' i d : ZMod q) + M (if i = piv then c else i) c * M' c d =
        M (if i = piv then c else i) d := by
  obtain ⟨piv, f, hc, hr, -, -, hf, hrow, hother⟩ := h
  refine ⟨piv, f, hc, hr, ?_, fun d hd => ?_, fun i hi hne d hd => ?_⟩
  · rw [← Nat.cast_mul, ← ZMod.natCast_mod, hf, Nat.cast_one]
  · rw [hrow d hd, ZMod.natCast_mod, Nat.cast_mul]
  · rw [← Nat.cast_mul, ← Nat.cast_add, ← ZMod.natCast_mod]
    exact congrArg Nat.cast (hother i hi hne d hd).2

/-- The rows after a column's elimination are combinations of those before it. -/
theorem EliminatesColumn.rowDot_eq (h : EliminatesColumn q r e c M M') (x : Nat → ZMod q) :
    ∃ (piv : Nat) (f : ZMod q), c ≤ piv ∧ piv < r ∧ (M piv c : ZMod q) * f = 1 ∧
      rowDot q e M' x c = f * rowDot q e M x piv ∧
      ∀ i < r, i ≠ c → rowDot q e M' x i + M (if i = piv then c else i) c * rowDot q e M' x c =
        rowDot q e M x (if i = piv then c else i) := by
  obtain ⟨piv, f, hc, hr, hf, hrow, hother⟩ := h.cast
  refine ⟨piv, f, hc, hr, hf, ?_, fun i hi hne => ?_⟩
  · simp only [rowDot, Finset.mul_sum]
    refine Finset.sum_congr rfl fun d hd => ?_
    rw [hrow d (Nat.le_of_lt_succ (Finset.mem_range.1 hd))]
    ring
  · simp only [rowDot, Finset.mul_sum, ← Finset.sum_add_distrib]
    refine Finset.sum_congr rfl fun d hd => ?_
    rw [← hother i hi hne d (Nat.le_of_lt_succ (Finset.mem_range.1 hd))]
    ring

/-- Eliminating a column changes no solution. -/
theorem EliminatesColumn.rowsVanish_iff (h : EliminatesColumn q r e c M M') (x : Nat → ZMod q) :
    RowsVanish q r e M x ↔ RowsVanish q r e M' x := by
  obtain ⟨piv, f, hc, hr, hf, hpivot, hother⟩ := h.rowDot_eq x
  have hcr : c < r := hc.trans_lt hr
  have hrest {i : Nat} (hi : i < r) (hne : i ≠ c) (hzero : rowDot q e M' x c = 0) :
      rowDot q e M' x i = rowDot q e M x (if i = piv then c else i) := by
    have hsum := hother i hi hne
    rwa [hzero, mul_zero, add_zero] at hsum
  constructor
  · intro hM i hi
    have hzero : rowDot q e M' x c = 0 := by rw [hpivot, hM piv hr, mul_zero]
    by_cases hne : i = c
    · rw [hne, hzero]
    · rw [hrest hi hne hzero]
      exact hM _ (by split <;> assumption)
  · intro hM' i hi
    have hzero := hM' c hcr
    by_cases hpiv : i = piv
    · calc rowDot q e M x i
        _ = M piv c * f * rowDot q e M x piv := by rw [hf, one_mul, hpiv]
        _ = 0 := by rw [mul_assoc, ← hpivot, hzero, mul_zero]
    · by_cases hne : i = c
      · have hrow := hrest hr (fun hpc => hpiv (hne.trans hpc.symm)) hzero
        rw [if_pos rfl, hM' piv hr] at hrow
        rw [hne, ← hrow]
      · have hrow := hrest hi hne hzero
        rw [if_neg hpiv, hM' i hi] at hrow
        exact hrow.symm

/-- Eliminating column c makes it a unit column and keeps those before it. -/
theorem EliminatesColumn.unitColumns (h : EliminatesColumn q r e c M M') (hce : c ≤ e) (hM : UnitColumns q r c M) :
    UnitColumns q r (c + 1) M' := by
  obtain ⟨piv, f, hc, hr, hf, hrow, hother⟩ := h.cast
  intro d hd i hi
  rcases Nat.lt_succ_iff_lt_or_eq.1 hd with hlt | rfl
  · have hpivot : (M' c d : ZMod q) = 0 := by
      rw [hrow d (by omega), hM d hlt piv hr, if_neg (by omega), zero_mul]
    by_cases hic : i = c
    · rw [hic, hpivot, if_neg (by omega)]
    · have hsum := hother i hi hic d (by omega)
      rw [hpivot, mul_zero, add_zero] at hsum
      rw [hsum]
      split
      · rw [hM d hlt c (by omega), if_neg (by omega), if_neg (by omega)]
      · exact hM d hlt i hi
  · have hpivot : (M' d d : ZMod q) = 1 := (hrow d hce).trans hf
    by_cases hic : i = d
    · rw [hic, hpivot, if_pos rfl]
    · have hsum := hother i hi hic d hce
      rw [hpivot, mul_one, add_eq_right] at hsum
      rw [hsum, if_neg hic]

/-- The relation of column c to the unit columns before it: column c itself less its entries times them. -/
def columnRelation (q c : Nat) (M : Nat → Nat → Nat) (d : Nat) : ZMod q :=
  if d < c then -(M d c : ZMod q) else if d = c then 1 else 0

theorem columnRelation_self : columnRelation q c M c = 1 := by simp [columnRelation]

theorem columnRelation_of_lt {d : Nat} (h : c < d) : columnRelation q c M d = 0 := by
  rw [columnRelation, if_neg (Nat.lt_asymm h), if_neg h.ne']

/-- Without a pivot in column c it is a combination of the columns before it. -/
theorem UnitColumns.rowsVanish_columnRelation (hM : UnitColumns q r c M) (hce : c ≤ e) (hno : NoPivot r c M) :
    RowsVanish q r e M (columnRelation q c M) := by
  intro i hi
  have hsub : Finset.range (c + 1) ⊆ Finset.range (e + 1) := Finset.range_subset_range.2 (Nat.succ_le_succ hce)
  have hfront : ∑ d ∈ Finset.range c, (M i d : ZMod q) * columnRelation q c M d =
      if i < c then -(M i c : ZMod q) else 0 := by
    rw [Finset.sum_congr rfl fun d hd => by
      rw [hM d (Finset.mem_range.1 hd) i hi, columnRelation, if_pos (Finset.mem_range.1 hd), ite_mul, one_mul,
        zero_mul], Finset.sum_ite_eq]
    exact if_congr Finset.mem_range rfl rfl
  rw [rowDot, ← Finset.sum_subset hsub fun d _ hd => by
    rw [columnRelation_of_lt (by simpa [Nat.succ_le_iff] using hd), mul_zero], Finset.sum_range_succ, hfront,
    columnRelation_self, mul_one]
  split
  · exact neg_add_cancel _
  · rw [hno i (by omega) hi, Nat.cast_zero, zero_add]

/-- A solution of the eliminated system has the entries of the last column, times the last entry of the solution. -/
theorem UnitColumns.solution (hM : UnitColumns q r e M) {x : Nat → ZMod q} (hx : RowsVanish q r e M x) {i : Nat}
    (hi : i < e) (hir : i < r) : x i = -(M i e : ZMod q) * x e := by
  have hrow := hx i hir
  rw [rowDot, Finset.sum_range_succ, Finset.sum_congr rfl fun d hd => by rw [hM d (Finset.mem_range.1 hd) i hir, ite_mul,
    one_mul, zero_mul], Finset.sum_ite_eq, if_pos (Finset.mem_range.2 hi)] at hrow
  rw [neg_mul]
  exact eq_neg_of_add_eq_zero_left hrow

end Column

/-! ### The columns one after the other -/

section Columns

variable {q r e n : Nat} {M : Nat → Nat → Nat → Nat} (h : ∀ c < n, EliminatesColumn q r e c (M c) (M (c + 1)))

include h

theorem rowsVanish_eliminated_iff (x : Nat → ZMod q) : RowsVanish q r e (M 0) x ↔ RowsVanish q r e (M n) x := by
  induction n with
  | zero => exact Iff.rfl
  | succ n ih => exact (ih fun c hc => h c (hc.trans n.lt_succ_self)).trans ((h n n.lt_succ_self).rowsVanish_iff x)

theorem unitColumns_eliminated (hne : n ≤ e) : UnitColumns q r n (M n) := by
  induction n with
  | zero => exact fun d hd => absurd hd d.not_lt_zero
  | succ n ih =>
    exact (h n n.lt_succ_self).unitColumns (Nat.le_of_succ_le hne)
      (ih (fun c hc => h c (hc.trans n.lt_succ_self)) (Nat.le_of_succ_le hne))

end Columns

end Sys2Proof.Machine
end

section
/-! SUPPORT. The elimination the decoder runs (spec/43_syndrome_decoder.md R244): a step per column, and whether every column
has a pivot. -/

namespace Sys2Proof.Machine

open Sys2Proof

/-! ### Grids of digits -/

/-- M has r rows of w digits each. -/
def IsGrid (q r w : Nat) (M : List (List Nat)) : Prop := M.length = r ∧ ∀ row ∈ M, isDigits q w row

theorem IsGrid.getD {q r w : Nat} {M : List (List Nat)} (hM : IsGrid q r w M) {i : Nat} (hi : i < r) :
    isDigits q w (M.getD i []) := by
  rw [List.getD_eq_getElem _ _ (hi.trans_eq hM.1.symm)]
  exact hM.2 _ (List.getElem_mem _)

theorem isGrid_of_getD {q r w : Nat} {M : List (List Nat)} (hlen : M.length = r)
    (hrow : ∀ i < r, isDigits q w (M.getD i [])) : IsGrid q r w M := by
  refine ⟨hlen, fun row hmem => ?_⟩
  obtain ⟨i, hi, rfl⟩ := List.getElem_of_mem hmem
  exact List.getD_eq_getElem M [] hi ▸ hrow i (hi.trans_eq hlen)

theorem IsGrid.matAt_lt {q r w : Nat} {M : List (List Nat)} (hq : 0 < q) (hM : IsGrid q r w M) {i : Nat} (hi : i < r)
    (d : Nat) : matAt M i d < q := at0_lt hq (hM.getD hi) d

/-! ### The pivot of a column -/

/-- The pivot of column c: the first row from c on with an entry there. -/
def pivotRow (r c : Nat) (M : List (List Nat)) : Option Nat := firstBelow r fun i => c ≤ i && matAt M i c != 0

theorem pivotRow_eq_none {r c : Nat} {M : List (List Nat)} : pivotRow r c M = none ↔ NoPivot r c (matAt M) := by
  rw [pivotRow, firstBelow_eq_none]
  refine ⟨fun h i hc hr => ?_, fun h i hr => Bool.and_eq_false_imp.2 fun hc => ?_⟩
  · simpa [hc] using h i hr
  · exact bne_eq_false_iff_eq.2 (h i (of_decide_eq_true hc) hr)

theorem pivotRow_eq_some {r c piv : Nat} {M : List (List Nat)} :
    pivotRow r c M = some piv ↔
      piv < r ∧ (c ≤ piv ∧ matAt M piv c ≠ 0) ∧ ∀ i < piv, c ≤ i → matAt M i c = 0 := by
  rw [pivotRow, firstBelow_eq_some]
  simp

/-! ### One column -/

/-- Row i after rows a and b have changed places. -/
theorem getD_swapRows {M : List (List Nat)} {a b : Nat} (ha : a < M.length) (hb : b < M.length) (i : Nat) :
    (swapRows M a b).getD i [] = if i = b then M.getD a [] else M.getD (if i = a then b else i) [] := by
  rw [swapRows]
  simp only [List.getD_eq_getElem?_getD, List.getElem?_set, List.length_set]
  by_cases hib : i = b
  · simp [hib, hb]
  · by_cases hia : i = a
    · subst hia
      simp [ha, hb, hib, Ne.symm hib]
    · simp [hib, hia, Ne.symm hib, Ne.symm hia]

theorem isGrid_swapRows {q r w : Nat} {M : List (List Nat)} (hM : IsGrid q r w M) {a b : Nat} (ha : a < r)
    (hb : b < r) : IsGrid q r w (swapRows M a b) := by
  refine isGrid_of_getD (by simp [swapRows, hM.1]) fun i hi => ?_
  rw [getD_swapRows (ha.trans_eq hM.1.symm) (hb.trans_eq hM.1.symm)]
  split
  · exact hM.getD ha
  · exact hM.getD (by split <;> assumption)

theorem at0_map_mulQ (q f : Nat) (l : List Nat) (d : Nat) : at0 (l.map fun x => mulQ q x f) d = at0 l d * f % q := by
  have h := List.getD_map (l := l) (n := d) 0 fun x => mulQ q x f
  rwa [mulQ, Nat.zero_mul, Nat.zero_mod] at h

/-- The pivot row is scaled. -/
theorem matAt_reduceColumn_pivot {q row : Nat} {M : List (List Nat)} (hrow : row < M.length) (col d : Nat) :
    matAt (reduceColumn q M row col) row d = matAt M row d * dinv q (matAt M row col) % q := by
  rw [matAt, reduceColumn, getD_tabulate, if_pos hrow, if_pos rfl]
  exact at0_map_mulQ ..

/-- Every other row loses its multiple of the scaled pivot row. -/
theorem matAt_reduceColumn_of_ne {q r w row i d : Nat} {M : List (List Nat)} (hM : IsGrid q r w M) (hrow : row < r)
    (hi : i < r) (hne : i ≠ row) (hd : d < w) (col : Nat) :
    matAt (reduceColumn q M row col) i d =
      subQ q (matAt M i d) (mulQ q (matAt M i col) (matAt (reduceColumn q M row col) row d)) := by
  have hlen := hM.1.symm
  conv_lhs => rw [matAt, reduceColumn, getD_tabulate, if_pos (hi.trans_eq hlen), if_neg hne, at0_tabulate,
    if_pos (hd.trans_eq (hM.getD hi).1.symm)]
  conv_rhs => rw [matAt.eq_1 (reduceColumn q M row col), reduceColumn, getD_tabulate, if_pos (hrow.trans_eq hlen),
    if_pos rfl]

theorem isGrid_reduceColumn {q r w : Nat} {M : List (List Nat)} (hq : 0 < q) (hM : IsGrid q r w M) (row col : Nat) :
    IsGrid q r w (reduceColumn q M row col) := by
  refine isGrid_of_getD ((length_tabulate _ _).trans hM.1) fun i hi => ?_
  rw [reduceColumn, getD_tabulate, if_pos (hi.trans_eq hM.1.symm)]
  split
  · rename_i hrow
    subst hrow
    refine ⟨by rw [List.length_map, (hM.getD hi).1], fun d hd => ?_⟩
    obtain ⟨x, -, rfl⟩ := List.mem_map.1 hd
    exact mulQ_lt hq
  · rw [(hM.getD hi).1]
    exact isDigits_tabulate fun d _ => subQ_lt hq

/-- What the elimination makes of a grid at column c; without a pivot it leaves it. -/
def eliminateColumn (q r : Nat) (M : List (List Nat)) (c : Nat) : List (List Nat) :=
  match pivotRow r c M with
  | some piv => reduceColumn q (swapRows M piv c) c c
  | none => M

theorem eliminateColumn_of_pivot {q r c piv : Nat} {M : List (List Nat)} (h : pivotRow r c M = some piv) :
    eliminateColumn q r M c = reduceColumn q (swapRows M piv c) c c := by
  rw [eliminateColumn, h]

theorem isGrid_eliminateColumn {q r w : Nat} {M : List (List Nat)} (hq : 0 < q) (hM : IsGrid q r w M) (c : Nat) :
    IsGrid q r w (eliminateColumn q r M c) := by
  cases hpiv : pivotRow r c M with
  | none => rwa [eliminateColumn, hpiv]
  | some piv =>
    obtain ⟨hr, ⟨hc, -⟩, -⟩ := pivotRow_eq_some.1 hpiv
    rw [eliminateColumn_of_pivot hpiv]
    exact isGrid_reduceColumn hq (isGrid_swapRows hM hr (hc.trans_lt hr)) c c

/-- A column with a pivot is eliminated as R244 says. -/
theorem IsGrid.eliminatesColumn {q r e c : Nat} {M : List (List Nat)} (hq : Nat.Prime q) (hM : IsGrid q r (e + 1) M)
    (hpiv : ¬ NoPivot r c (matAt M)) : EliminatesColumn q r e c (matAt M) (matAt (eliminateColumn q r M c)) := by
  obtain ⟨piv, hsome⟩ := Option.ne_none_iff_exists'.1 (mt pivotRow_eq_none.1 hpiv)
  obtain ⟨hr, ⟨hc, hne⟩, hfirst⟩ := pivotRow_eq_some.1 hsome
  have hcr : c < r := hc.trans_lt hr
  have hgrid := isGrid_swapRows hM hr hcr
  have hswap (i d : Nat) : matAt (swapRows M piv c) i d =
      if i = c then matAt M piv d else matAt M (if i = piv then c else i) d := by
    rw [matAt, getD_swapRows (hr.trans_eq hM.1.symm) (hcr.trans_eq hM.1.symm)]
    split <;> rfl
  rw [eliminateColumn_of_pivot hsome]
  refine ⟨piv, dinv q (matAt M piv c), hc, hr, hne, fun i hci hi => hfirst i hi hci,
    mulQ_dinv hq hne (hM.matAt_lt hq.pos hr c), fun d _ => ?_, fun i hi hic d hd => ?_⟩
  · rw [matAt_reduceColumn_pivot (hcr.trans_eq hgrid.1.symm), hswap, hswap, if_pos rfl, if_pos rfl]
  · rw [matAt_reduceColumn_of_ne hgrid hcr hi hic (Nat.lt_succ_of_le hd), hswap i, if_neg hic, hswap i, if_neg hic]
    refine ⟨subQ_lt hq.pos, ?_⟩
    rw [← Nat.add_mod_mod]
    exact subQ_add_mod (hM.matAt_lt hq.pos (by split <;> assumption) d)

/-! ### The columns one after the other -/

/-- The grid after the elimination of its first c columns. -/
def eliminated (q r : Nat) (M : List (List Nat)) : Nat → List (List Nat)
  | 0 => M
  | c + 1 => eliminateColumn q r (eliminated q r M c) c

theorem isGrid_eliminated {q r w : Nat} {M : List (List Nat)} (hq : 0 < q) (hM : IsGrid q r w M) (c : Nat) :
    IsGrid q r w (eliminated q r M c) := by
  induction c with
  | zero => exact hM
  | succ c ih => exact isGrid_eliminateColumn hq ih c

theorem eliminate_succ_of_pivot {q r cols c piv : Nat} {M : List (List Nat)} (h : pivotRow r c M = some piv) :
    eliminate q r (cols + 1) c c M = eliminate q r cols (c + 1) (c + 1) (eliminateColumn q r M c) := by
  rw [eliminateColumn_of_pivot h]
  rw [pivotRow] at h
  rw [eliminate, h]

theorem eliminate_succ_of_noPivot {q r cols c : Nat} {M : List (List Nat)} (h : pivotRow r c M = none) :
    eliminate q r (cols + 1) c c M = none := by
  rw [pivotRow] at h
  rw [eliminate, h]

/-- Column c of the grid has a pivot when the elimination comes to it. -/
def PivotAt (q r : Nat) (M : List (List Nat)) (c : Nat) : Prop := ¬ NoPivot r c (matAt (eliminated q r M c))

theorem PivotAt.exists_pivotRow {q r c : Nat} {M : List (List Nat)} (h : PivotAt q r M c) :
    ∃ piv, pivotRow r c (eliminated q r M c) = some piv :=
  Option.ne_none_iff_exists'.1 (mt pivotRow_eq_none.1 h)

theorem eliminate_of_pivotAt {q r cols c : Nat} {M : List (List Nat)}
    (h : ∀ d, c ≤ d → d < c + cols → PivotAt q r M d) :
    eliminate q r cols c c (eliminated q r M c) = some (eliminated q r M (c + cols)) := by
  induction cols generalizing c with
  | zero => rfl
  | succ cols ih =>
    obtain ⟨piv, hpiv⟩ := (h c le_rfl (by omega)).exists_pivotRow
    rw [eliminate_succ_of_pivot hpiv, show c + (cols + 1) = c + 1 + cols by omega]
    exact ih fun d hd hlt => h d (by omega) (by omega)

theorem eliminate_of_not_pivotAt {q r cols c d : Nat} {M : List (List Nat)} (hcd : c ≤ d) (hd : d < c + cols)
    (h : ¬ PivotAt q r M d) : eliminate q r cols c c (eliminated q r M c) = none := by
  induction cols generalizing c with
  | zero => omega
  | succ cols ih =>
    by_cases hc : PivotAt q r M c
    · obtain ⟨piv, hpiv⟩ := hc.exists_pivotRow
      have hne : c ≠ d := fun heq => h (heq ▸ hc)
      rw [eliminate_succ_of_pivot hpiv]
      exact ih (by omega) (by omega)
    · exact eliminate_succ_of_noPivot (pivotRow_eq_none.2 (not_not.1 hc))

end Sys2Proof.Machine
end

section
/-! SUPPORT. The erasure system of a received word (spec/43_syndrome_decoder.md R243 to R245): what its elimination says of the
columns of H at the erased positions and of the words that complete the received one. -/

namespace Sys2Proof.Machine

open Sys2Proof

/-! ### Rows of H times a word -/

theorem rowTimes_cast (s : State) (i : Nat) (word : Nat → Nat) :
    (rowTimes s i word : ZMod s.fqB.toNat) =
      ∑ j ∈ Finset.range (coveredLen s), (wireH s i j : ZMod s.fqB.toNat) * word j := by
  rw [rowTimes, ZMod.natCast_mod, sumBelow_eq_sum, Nat.cast_sum]
  exact Finset.sum_congr rfl fun _ _ => Nat.cast_mul _ _

theorem mod_eq_zero_iff_cast {q n : Nat} : n % q = 0 ↔ (n : ZMod q) = 0 := by
  rw [ZMod.natCast_eq_zero_iff, Nat.dvd_iff_mod_eq_zero]

theorem rowTimes_eq_zero_iff {s : State} {i : Nat} {word : Nat → Nat} :
    rowTimes s i word = 0 ↔ (rowTimes s i word : ZMod s.fqB.toNat) = 0 := by
  rw [rowTimes, mod_eq_zero_iff_cast, ZMod.natCast_mod]

/-- A sum over listed positions is one over all positions, where the other terms are 0. -/
theorem sum_range_at0 {A : Type} [AddCommMonoid A] {Ep : List Nat} {n : Nat} (hnodup : Ep.Nodup) (hlt : ∀ j ∈ Ep, j < n)
    {f : Nat → A} (hzero : ∀ j < n, j ∉ Ep → f j = 0) :
    ∑ c ∈ Finset.range Ep.length, f (at0 Ep c) = ∑ j ∈ Finset.range n, f j := by
  have hget {c : Nat} (hc : c ∈ Finset.range Ep.length) : at0 Ep c = Ep[c]'(Finset.mem_range.1 hc) :=
    at0_eq_getElem (Finset.mem_range.1 hc)
  refine Finset.sum_of_injOn (at0 Ep) (fun c hc d hd heq => ?_) (fun c hc => ?_) (fun j hj hnot => ?_) fun _ _ => rfl
  · rw [hget hc, hget hd] at heq
    exact (hnodup.getElem_inj_iff).1 heq
  · exact Finset.mem_coe.2 (Finset.mem_range.2 (hget hc ▸ hlt _ (List.getElem_mem _)))
  · refine hzero j (Finset.mem_range.1 hj) fun hmem => hnot ?_
    obtain ⟨c, hc, rfl⟩ := List.getElem_of_mem hmem
    exact ⟨c, Finset.mem_coe.2 (Finset.mem_range.2 hc), hget (Finset.mem_range.2 hc)⟩

/-! ### The system and its solutions -/

/-- The erased positions that H covers, and the system of R244 whose unknowns they are. -/
structure ErasureSystem (s : State) (Ep : List Nat) (M : Nat → Nat → Nat) : Prop where
  sorted : Ep.Pairwise (· < ·)
  mem_iff : ∀ j, j ∈ Ep ↔ j < coveredLen s ∧ IsErased s j
  entries : ∀ i < s.fmB.toNat, (∀ c < Ep.length, M i c = wireH s i (at0 Ep c)) ∧
    M i Ep.length < s.fqB.toNat ∧ (M i Ep.length + rowTimes s i (receivedSymbol s)) % s.fqB.toNat = 0

section System

variable {s : State} {Ep : List Nat} {M : Nat → Nat → Nat} (hS : ErasureSystem s Ep M)

include hS

theorem ErasureSystem.nodup : Ep.Nodup := hS.sorted.imp fun hlt => hlt.ne

theorem ErasureSystem.at0_erased {c : Nat} (hc : c < Ep.length) : at0 Ep c < coveredLen s ∧ IsErased s (at0 Ep c) :=
  (hS.mem_iff _).1 (at0_eq_getElem hc ▸ List.getElem_mem _)

theorem ErasureSystem.exists_at0 {j : Nat} (hj : j < coveredLen s) (he : IsErased s j) : ∃ c < Ep.length, at0 Ep c = j := by
  obtain ⟨c, hc, heq⟩ := List.getElem_of_mem ((hS.mem_iff j).2 ⟨hj, he⟩)
  exact ⟨c, hc, (at0_eq_getElem hc).trans heq⟩

/-- The right side of the system is the negative of the syndrome (R243). -/
theorem ErasureSystem.rightSide {i : Nat} (hi : i < s.fmB.toNat) :
    (M i Ep.length : ZMod s.fqB.toNat) * -1 = rowTimes s i (receivedSymbol s) := by
  obtain ⟨-, -, hentry⟩ := hS.entries i hi
  have hsum := congrArg (Nat.cast : Nat → ZMod s.fqB.toNat) hentry
  rw [ZMod.natCast_mod, Nat.cast_add, Nat.cast_zero] at hsum
  rw [mul_neg_one]
  exact neg_eq_of_add_eq_zero_right hsum

/-- A word x that agrees with u but at the erased positions, where u is 0, has syndrome 0 exactly when its erased symbols,
before an entry that stands for u, solve the system. -/
theorem ErasureSystem.rowsVanish_iff {u x : Nat → Nat} {z : Nat → ZMod s.fqB.toNat}
    (hu : ∀ j < coveredLen s, IsErased s j → u j = 0) (hx : ∀ j < coveredLen s, ¬ IsErased s j → x j = u j)
    (hz : ∀ c < Ep.length, z c = x (at0 Ep c))
    (hlast : ∀ i < s.fmB.toNat, (M i Ep.length : ZMod s.fqB.toNat) * z Ep.length = rowTimes s i u) :
    RowsVanish s.fqB.toNat s.fmB.toNat Ep.length M z ↔ ∀ i < s.fmB.toNat, rowTimes s i x = 0 := by
  refine forall₂_congr fun i hi => ?_
  have herased : ∑ c ∈ Finset.range Ep.length, (M i c : ZMod s.fqB.toNat) * z c =
      ∑ j ∈ Finset.range (coveredLen s), (wireH s i j : ZMod s.fqB.toNat) * (x j - u j) := by
    rw [← sum_range_at0 hS.nodup (fun j hj => ((hS.mem_iff j).1 hj).1) fun j hj hnot => by
      rw [hx j hj fun he => hnot ((hS.mem_iff j).2 ⟨hj, he⟩), sub_self, mul_zero]]
    refine Finset.sum_congr rfl fun c hc => ?_
    have hlt := Finset.mem_range.1 hc
    obtain ⟨hcov, her⟩ := hS.at0_erased hlt
    rw [(hS.entries i hi).1 c hlt, hz c hlt, hu _ hcov her, Nat.cast_zero, sub_zero]
  have hdot : rowDot s.fqB.toNat Ep.length M z i = rowTimes s i x := by
    rw [rowDot, Finset.sum_range_succ, herased, hlast i hi, rowTimes_cast, rowTimes_cast, ← Finset.sum_add_distrib]
    refine Finset.sum_congr rfl fun j _ => ?_
    ring
  rw [rowTimes_eq_zero_iff, hdot]

end System

/-! ### The solved system -/

/-- The symbols of a word at the listed positions, and behind them an entry for the right side of the system. -/
def listedSymbols (q : Nat) (Ep : List Nat) (x : Nat → Nat) (last : ZMod q) (d : Nat) : ZMod q :=
  if d < Ep.length then (x (at0 Ep d) : ZMod q) else last

theorem listedSymbols_length (q : Nat) (Ep : List Nat) (x : Nat → Nat) (last : ZMod q) :
    listedSymbols q Ep x last Ep.length = last := if_neg (Nat.lt_irrefl _)

section Solved

variable {s : State} {Ep : List Nat} {M : Nat → Nat → Nat → Nat} (hS : ErasureSystem s Ep (M 0))
  (hM : ∀ c < Ep.length, EliminatesColumn s.fqB.toNat s.fmB.toNat Ep.length c (M c) (M (c + 1)))

include hS hM

/-- The eliminated system gives the erased symbols of every word of syndrome 0 that agrees with u elsewhere. -/
theorem ErasureSystem.solution {u x : Nat → Nat} {last : ZMod s.fqB.toNat}
    (hu : ∀ j < coveredLen s, IsErased s j → u j = 0) (hx : ∀ j < coveredLen s, ¬ IsErased s j → x j = u j)
    (hlast : ∀ i < s.fmB.toNat, (M 0 i Ep.length : ZMod s.fqB.toNat) * last = rowTimes s i u)
    (hrows : ∀ i < s.fmB.toNat, rowTimes s i x = 0) {c : Nat} (hc : c < Ep.length) :
    (x (at0 Ep c) : ZMod s.fqB.toNat) = -(M Ep.length c Ep.length : ZMod s.fqB.toNat) * last := by
  have hz : RowsVanish s.fqB.toNat s.fmB.toNat Ep.length (M 0) (listedSymbols s.fqB.toNat Ep x last) :=
    (hS.rowsVanish_iff hu hx (fun d hd => if_pos hd) fun i hi => by rw [if_neg (Nat.lt_irrefl _), hlast i hi]).2 hrows
  obtain ⟨piv, -, hcp, hpr, -⟩ := hM c hc
  have hsol := (unitColumns_eliminated hM le_rfl).solution ((rowsVanish_eliminated_iff hM _).1 hz) hc
    (hcp.trans_lt hpr)
  rw [listedSymbols_length] at hsol
  rw [← hsol, listedSymbols, if_pos hc]

/-- With a pivot in every column the columns of H at the erased positions are independent. -/
theorem ErasureSystem.erasedIndependent : ErasedIndependent s := by
  intro x hdigit hx hrows j hj
  by_cases her : IsErased s j
  · obtain ⟨c, hc, rfl⟩ := hS.exists_at0 hj her
    have hzero := hS.solution hM (u := fun _ => 0) (last := 0) (fun _ _ _ => rfl) hx
      (fun i _ => by simp [rowTimes_cast]) hrows hc
    rw [mul_zero] at hzero
    exact Nat.eq_zero_of_dvd_of_lt ((ZMod.natCast_eq_zero_iff _ _).1 hzero) (hdigit _)
  · exact hx j hj her

end Solved

/-- A word that holds given field values at the listed positions, and 0 elsewhere. -/
def listedWord {q : Nat} (Ep : List Nat) (z : Nat → ZMod q) (j : Nat) : Nat :=
  if j ∈ Ep then (z (Ep.idxOf j)).val else 0

theorem listedWord_at0 {q : Nat} {Ep : List Nat} (hnodup : Ep.Nodup) (z : Nat → ZMod q) {c : Nat} (hc : c < Ep.length) :
    listedWord Ep z (at0 Ep c) = (z c).val := by
  rw [at0_eq_getElem hc, listedWord, if_pos (List.getElem_mem hc), hnodup.idxOf_getElem]

theorem listedWord_lt {q : Nat} (hq : 0 < q) (Ep : List Nat) (z : Nat → ZMod q) (j : Nat) : listedWord Ep z j < q := by
  have : NeZero q := ⟨hq.ne'⟩
  unfold listedWord
  split
  · exact ZMod.val_lt _
  · exact hq

/-- Without a pivot in a column the columns of H at the erased positions are dependent. -/
theorem ErasureSystem.not_erasedIndependent {s : State} {Ep : List Nat} {M : Nat → Nat → Nat → Nat} {n : Nat}
    (hS : ErasureSystem s Ep (M 0)) (hq : Nat.Prime s.fqB.toNat)
    (hM : ∀ c < n, EliminatesColumn s.fqB.toNat s.fmB.toNat Ep.length c (M c) (M (c + 1))) (hn : n < Ep.length)
    (hno : NoPivot s.fmB.toNat n (M n)) : ¬ ErasedIndependent s := by
  intro hind
  have : Fact (Nat.Prime s.fqB.toNat) := ⟨hq⟩
  have hz : RowsVanish s.fqB.toNat s.fmB.toNat Ep.length (M 0) (columnRelation s.fqB.toNat n (M n)) :=
    (rowsVanish_eliminated_iff hM _).2 ((unitColumns_eliminated hM hn.le).rowsVanish_columnRelation hn.le hno)
  have hoff (j : Nat) (_ : j < coveredLen s) (her : ¬ IsErased s j) :
      listedWord Ep (columnRelation s.fqB.toNat n (M n)) j = 0 := if_neg fun hmem => her ((hS.mem_iff j).1 hmem).2
  have hrows := (hS.rowsVanish_iff (u := fun _ => 0) (fun _ _ _ => rfl) hoff
    (fun c hc => by rw [listedWord_at0 hS.nodup _ hc, ZMod.natCast_zmod_val])
    fun i _ => by simp [rowTimes_cast, columnRelation_of_lt hn]).1 hz
  have hone := hind _ (listedWord_lt hq.pos Ep _) hoff hrows _ (hS.at0_erased hn).1
  rw [listedWord_at0 hS.nodup _ hn, columnRelation_self, ZMod.val_eq_zero] at hone
  exact one_ne_zero hone

/-- The solved erasures complete the received word as every word of syndrome 0 does that completes it (R245). -/
theorem ErasuresSolved.cast_eq {s : State} {fill x : Nat → Nat} (hsolved : ErasuresSolved s fill)
    (hfill : ∀ j < coveredLen s, ¬ IsErased s j → fill j = winNat s .inp j)
    (hx : ∀ j < coveredLen s, ¬ IsErased s j → x j = winNat s .inp j)
    (hrows : ∀ i < s.fmB.toNat, rowTimes s i x = 0) {j : Nat} (hj : j < coveredLen s) :
    (fill j : ZMod s.fqB.toNat) = x j := by
  obtain ⟨Ep, M, hsorted, hmem, hentries, hM, hvalue⟩ := hsolved
  have hS : ErasureSystem s Ep (M 0) := ⟨hsorted, hmem, hentries⟩
  by_cases her : IsErased s j
  · obtain ⟨c, hc, rfl⟩ := hS.exists_at0 hj her
    rw [hvalue c hc, hS.solution hM (u := receivedSymbol s) (fun j _ her => if_pos her)
      (fun j hj her => (hx j hj her).trans (if_neg her).symm) (fun i hi => hS.rightSide hi) hrows hc, neg_mul_neg,
      mul_one]
  · rw [hfill j hj her, hx j hj her]

/-- The solved erasures give a word of syndrome 0 wherever some filling does (R245). -/
theorem ErasuresSolved.rowTimes_eq_zero {s : State} {fill : Nat → Nat} (hsolved : ErasuresSolved s fill)
    (hfill : ∀ j < coveredLen s, ¬ IsErased s j → fill j = winNat s .inp j) (hcons : ErasuresConsistent s) {i : Nat}
    (hi : i < s.fmB.toNat) : rowTimes s i fill = 0 := by
  obtain ⟨x, hx, hrows⟩ := hcons
  rw [rowTimes_eq_zero_iff, rowTimes_cast, Finset.sum_congr rfl fun j hj => by
    rw [hsolved.cast_eq hfill (fun j hj => (hx j hj).2) hrows (Finset.mem_range.1 hj)], ← rowTimes_cast, hrows i hi,
    Nat.cast_zero]

end Sys2Proof.Machine
end

section
/-! SUPPORT. The erasure resolver over a built code (spec/43_syndrome_decoder.md R242 to R245): the erased positions, whether
their system is solved, and the word with its erasures filled. -/

namespace Sys2Proof.Machine

open Sys2Proof

/-- The parity symbol of an Extended word stands on the wire (R248). -/
theorem parityPosition_lt {s : State} (hvar : s.cvarB = 2) : s.cnB.toNat < (codeView s).wireLen := by
  rw [wireLen_extended hvar]
  exact Nat.lt_succ_self _

/-! ### Filled positions -/

@[simp] theorem length_fillPositions (y es xs : List Nat) : (fillPositions y es xs).length = y.length := by
  induction es generalizing y xs with
  | nil => rfl
  | cons e es ih =>
    cases xs with
    | nil => rfl
    | cons x xs => rw [fillPositions, ih, List.length_set]

theorem at0_fillPositions_of_not_mem {y es xs : List Nat} {i : Nat} (hi : i ∉ es) :
    at0 (fillPositions y es xs) i = at0 y i := by
  induction es generalizing y xs with
  | nil => rfl
  | cons e es ih =>
    cases xs with
    | nil => rfl
    | cons x xs =>
      obtain ⟨hne, hes⟩ := not_or.1 (mt List.mem_cons.2 hi)
      rw [fillPositions, ih hes, at0, List.getD_eq_getElem?_getD, List.getElem?_set_ne (Ne.symm hne),
        ← List.getD_eq_getElem?_getD, at0]

theorem at0_fillPositions {y es xs : List Nat} (hnodup : es.Nodup) (hlt : ∀ e ∈ es, e < y.length)
    (hlen : es.length = xs.length) {c : Nat} (hc : c < es.length) : at0 (fillPositions y es xs) (at0 es c) = at0 xs c := by
  induction es generalizing y xs c with
  | nil => exact absurd hc (Nat.not_lt_zero _)
  | cons e es ih =>
    cases xs with
    | nil => exact nomatch hlen
    | cons x xs =>
      obtain ⟨hnot, hes⟩ := List.nodup_cons.1 hnodup
      have hey : e < y.length := hlt e List.mem_cons_self
      rw [fillPositions]
      cases c with
      | zero =>
        refine (at0_fillPositions_of_not_mem hnot).trans ?_
        exact (at0_set hey x e).trans (if_pos rfl)
      | succ c =>
        refine ih hes (fun e' he' => ?_) (Nat.succ.inj hlen) (Nat.lt_of_succ_lt_succ hc)
        rw [List.length_set]
        exact hlt e' (List.mem_cons_of_mem _ he')

/-! ### The system of the received word -/

/-- The erased wire positions that H covers, in increasing order (R242). -/
def erasedWire (s : State) : List Nat :=
  (List.range (codeView s).wireLen).filter fun j =>
    erasedAt (codeView s) (wireIn s) (erasList s) j && (codeView s).s + j < (codeView s).n

theorem erasedPositions_eq (s : State) :
    erasedPositions (codeView s) (wireIn s) (erasList s) = (erasedWire s).map (s.csB.toNat + ·) := rfl

/-- The system of R244 for the received word. -/
def erasureGrid (s : State) : List (List Nat) :=
  erasureSystem (codeView s) (erasedPositions (codeView s) (wireIn s) (erasList s)) (receivedSyndrome s)

/-- The system of the received word has a pivot in every column. -/
def AllPivots (s : State) : Prop := ∀ c < (erasedWire s).length, PivotAt s.fqB.toNat s.fmB.toNat (erasureGrid s) c

theorem exists_not_pivotAt {s : State} (h : ¬ AllPivots s) :
    ∃ c, c < (erasedWire s).length ∧ ¬ PivotAt s.fqB.toNat s.fmB.toNat (erasureGrid s) c := by
  simpa [AllPivots] using h

/-- The value that the eliminated system of the received word gives the erased position c. -/
def erasedValue (s : State) (c : Nat) : Nat :=
  matAt (eliminated s.fqB.toNat s.fmB.toNat (erasureGrid s) (erasedWire s).length) c (erasedWire s).length

section Code

variable {s : State} (h : CodeOk s)

include h

theorem CodeOk.mem_erasedWire_iff (j : Nat) : j ∈ erasedWire s ↔ j < coveredLen s ∧ IsErased s j := by
  have hcov : s.csB.toNat + j < s.cnB.toNat ↔ j < coveredLen s := by
    rw [coveredLen]
    omega
  rw [erasedWire, List.mem_filter, List.mem_range, Bool.and_eq_true, decide_eq_true_iff]
  constructor
  · rintro ⟨hw, her, hlt⟩
    exact ⟨hcov.1 hlt, (erasedAt_iff hw).1 her⟩
  · rintro ⟨hlt, her⟩
    have hw := hlt.trans_le h.coveredLen_le_wireLen
    exact ⟨hw, (erasedAt_iff hw).2 her, hcov.2 hlt⟩

theorem CodeOk.at0_receivedSyndrome {i : Nat} (hi : i < s.fmB.toNat) :
    at0 (receivedSyndrome s) i = rowTimes s i (receivedSymbol s) :=
  (h.at0_syndrome (fun _ => at0_paddedWord_punctured) hi).trans (rowTimes_congr (fun _ => h.at0_paddedWord) i)

theorem CodeOk.r_eq : (codeView s).r = s.fmB.toNat := h.dims.2.2

theorem CodeOk.getD_erasureGrid {i : Nat} (hi : i < s.fmB.toNat) :
    (erasureGrid s).getD i [] =
      (erasedWire s).map (wireH s i) ++ [negQ s.fqB.toNat (rowTimes s i (receivedSymbol s))] := by
  rw [erasureGrid, erasureSystem, h.r_eq, getD_tabulate, if_pos hi, erasedPositions_eq, List.map_map,
    h.at0_receivedSyndrome hi]
  rfl

theorem CodeOk.isGrid_erasureGrid : IsGrid s.fqB.toNat s.fmB.toNat ((erasedWire s).length + 1) (erasureGrid s) := by
  refine isGrid_of_getD ((length_tabulate _ _).trans h.r_eq) fun i hi => ?_
  rw [h.getD_erasureGrid hi]
  refine ⟨by simp, fun d hd => ?_⟩
  rcases List.mem_append.1 hd with hd | hd
  · obtain ⟨j, hj, rfl⟩ := List.mem_map.1 hd
    exact h.matAt_H_lt hi (Nat.add_lt_of_lt_sub' ((h.mem_erasedWire_iff j).1 hj).1)
  · rw [List.mem_singleton.1 hd]
    exact negQ_lt h.field.prime.pos

/-- The system that the decoder sets up is that of R244. -/
theorem CodeOk.erasureSystem : ErasureSystem s (erasedWire s) (matAt (erasureGrid s)) where
  sorted := List.pairwise_lt_range.sublist List.filter_sublist
  mem_iff := h.mem_erasedWire_iff
  entries := fun i hi => by
    have hlast : matAt (erasureGrid s) i (erasedWire s).length =
        negQ s.fqB.toNat (rowTimes s i (receivedSymbol s)) := by
      rw [matAt, h.getD_erasureGrid hi, at0_append_singleton, List.length_map, if_pos rfl]
    refine ⟨fun c hc => ?_, ?_, ?_⟩
    · rw [matAt, h.getD_erasureGrid hi, at0_append_singleton, List.length_map, if_neg hc.ne, at0_eq_getElem (by simpa using hc),
        List.getElem_map, at0_eq_getElem hc]
    · rw [hlast]
      exact negQ_lt h.field.prime.pos
    · rw [hlast, Nat.add_comm]
      exact add_negQ h.field.prime.pos

/-- A column of the system with a pivot is eliminated as R244 says. -/
theorem CodeOk.eliminatesColumn {c : Nat} (hpiv : PivotAt s.fqB.toNat s.fmB.toNat (erasureGrid s) c) :
    EliminatesColumn s.fqB.toNat s.fmB.toNat (erasedWire s).length c
      (matAt (eliminated s.fqB.toNat s.fmB.toNat (erasureGrid s) c))
      (matAt (eliminated s.fqB.toNat s.fmB.toNat (erasureGrid s) (c + 1))) :=
  (isGrid_eliminated h.field.prime.pos h.isGrid_erasureGrid c).eliminatesColumn h.field.prime hpiv

/-- Full column rank (R244): the elimination finds every pivot exactly when the erased columns of H are independent. -/
theorem CodeOk.erasedIndependent_iff : ErasedIndependent s ↔ AllPivots s := by
  constructor
  · intro hind
    by_contra hnot
    have hex := exists_not_pivotAt hnot
    classical
    obtain ⟨hlt, hno⟩ := Nat.find_spec hex
    refine h.erasureSystem.not_erasedIndependent (n := Nat.find hex)
      (M := fun c => matAt (eliminated s.fqB.toNat s.fmB.toNat (erasureGrid s) c)) h.field.prime
      (fun c hc => h.eliminatesColumn ?_) hlt (not_not.1 hno) hind
    by_contra hc'
    exact Nat.find_min hex hc ⟨hc.trans hlt, hc'⟩
  · exact fun hall => h.erasureSystem.erasedIndependent
      (M := fun c => matAt (eliminated s.fqB.toNat s.fmB.toNat (erasureGrid s) c)) fun c hc => h.eliminatesColumn (hall c hc)

theorem CodeOk.solveErasures_eq :
    solveErasures (codeView s) (erasedPositions (codeView s) (wireIn s) (erasList s)) (receivedSyndrome s) =
      (eliminate s.fqB.toNat s.fmB.toNat (erasedWire s).length 0 0 (erasureGrid s)).map fun M =>
        tabulate (erasedWire s).length fun c => matAt M c (erasedWire s).length := by
  have hlen : (erasedPositions (codeView s) (wireIn s) (erasList s)).length = (erasedWire s).length :=
    List.length_map _
  rw [solveErasures, hlen, h.r_eq]
  split
  · rename_i M hM
    rw [show eliminate s.fqB.toNat s.fmB.toNat (erasedWire s).length 0 0 (erasureGrid s) = some M from hM]
    rfl
  · rename_i hM
    rw [show eliminate s.fqB.toNat s.fmB.toNat (erasedWire s).length 0 0 (erasureGrid s) = none from hM]
    rfl

/-- The resolver gives every erased position its value in the eliminated system, if that is solved. -/
theorem CodeOk.solveErasures_eq_some (hall : AllPivots s) :
    solveErasures (codeView s) (erasedPositions (codeView s) (wireIn s) (erasList s)) (receivedSyndrome s) =
      some (tabulate (erasedWire s).length (erasedValue s)) := by
  have helim := eliminate_of_pivotAt (c := 0) (cols := (erasedWire s).length) fun d _ hd =>
    hall d (hd.trans_eq (Nat.zero_add _))
  rw [Nat.zero_add, eliminated] at helim
  rw [h.solveErasures_eq, helim]
  rfl

theorem CodeOk.solveErasures_eq_none (hnot : ¬ AllPivots s) :
    solveErasures (codeView s) (erasedPositions (codeView s) (wireIn s) (erasList s)) (receivedSyndrome s) = none := by
  obtain ⟨d, hd, hno⟩ := exists_not_pivotAt hnot
  have helim := eliminate_of_not_pivotAt (cols := (erasedWire s).length) d.zero_le (hd.trans_eq (Nat.zero_add _).symm) hno
  rw [eliminated] at helim
  rw [h.solveErasures_eq, helim]
  rfl

end Code

end Sys2Proof.Machine
end

section
/-! SUPPORT. The single-error search and what the decoder does with its answer (spec/43_syndrome_decoder.md R247 to R251), by
the syndrome of the filled word. -/

namespace Sys2Proof.Machine

open Sys2Proof

/-! ### The search -/

section Search

variable {s : State} (h : CodeOk s) {S1 : List Nat} {S : Nat → Nat} (hS : ∀ i < s.fmB.toNat, S i = at0 S1 i)

include h hS

/-- The search accepts a column and a digit exactly when they match (R248). -/
theorem CodeOk.syndromeMatches_iff {j a : Nat} :
    SyndromeMatches s S j a ↔ j < s.cnB.toNat ∧ a < s.fqB.toNat ∧
      (1 ≤ a && (List.range (codeView s).r).all fun i =>
        at0 S1 i == mulQ s.fqB.toNat a (matAt (codeView s).H i j)) = true := by
  simp only [SyndromeMatches, h.r_eq, Bool.and_eq_true, decide_eq_true_iff, List.all_eq_true, List.mem_range, beq_iff_eq]
  have hrows : (∀ i < s.fmB.toNat, S i = a * matAt (codeView s).H i j % s.fqB.toNat) ↔
      ∀ i < s.fmB.toNat, at0 S1 i = mulQ s.fqB.toNat a (matAt (codeView s).H i j) :=
    forall₂_congr fun i hi => by rw [hS i hi, mulQ]
  rw [hrows]
  tauto

theorem CodeOk.syndromeMatches_of_searchError {ja : Nat × Nat} (hsearch : searchError (codeView s) S1 = some ja) :
    SyndromeMatches s S ja.1 ja.2 := by
  obtain ⟨j, hj, hcol, -⟩ := firstSome_eq_some.1 hsearch
  obtain ⟨a, ha, hval, -⟩ := firstSome_eq_some.1 hcol
  obtain ⟨hmatch, heq⟩ := (Option.ite_none_right_eq_some).1 hval
  obtain rfl := Option.some.inj heq
  exact (h.syndromeMatches_iff hS).2 ⟨hj, ha, hmatch⟩

theorem CodeOk.not_syndromeMatches_of_searchError (hsearch : searchError (codeView s) S1 = none) (j a : Nat) :
    ¬ SyndromeMatches s S j a := by
  intro hm
  obtain ⟨hj, ha, hmatch⟩ := (h.syndromeMatches_iff hS).1 hm
  have hval := firstSome_eq_none.1 (firstSome_eq_none.1 hsearch j hj) a ha
  exact absurd ((if_pos hmatch).symm.trans hval) (Option.some_ne_none _)

end Search

/-! ### The corrections -/

theorem extended_iff (s : State) : (codeView s).extended = true ↔ s.cvarB = 2 :=
  beq_iff_eq.trans ⟨fun hv => BitVec.eq_of_toNat_eq hv, congrArg BitVec.toNat⟩

/-- The decoder has decided nothing yet: it knows no location and no flag of the steps behind the erasures. -/
structure Undecided (D : Decoding) : Prop where
  loc : D.loc = none
  corrected : D.flags.corrected = false
  detectOnly : D.flags.detectOnly = false
  parityFixed : D.flags.parityFixed = false
  doubleDetect : D.flags.doubleDetect = false
  punctured : D.flags.punctured = false

/-- What the correction leaves: the flags of the erasures and those of the BCH decoder. -/
def SameErasureFlags (d d' : DStat) : Prop :=
  d' = { d with
    corrected := d'.corrected, detectOnly := d'.detectOnly, parityFixed := d'.parityFixed
    doubleDetect := d'.doubleDetect, punctured := d'.punctured }

/-- The location the correction reports, and the word it leaves (R247, R250). -/
inductive Located (s : State) (S : Nat → Nat) (D D' : Decoding) : Prop where
  /-- no location, the word as it was -/
  | nowhere (hloc : D'.loc = none) (hword : D'.y = D.y) (hc : D'.flags.corrected = false)
      (hp : D'.flags.punctured = false)
  /-- an error in the punctured symbols, the word as it was (R249) -/
  | puncturedAt (j a : Nat) (hmatch : SyndromeMatches s S j a) (hj : j < s.csB.toNat) (hloc : D'.loc = some (j, a))
      (hword : D'.y = D.y) (hc : D'.flags.corrected = false) (hp : D'.flags.punctured = true)
  /-- an error on the wire, taken off the word -/
  | correctedAt (j a : Nat) (hmatch : SyndromeMatches s S j a) (hj : s.csB.toNat ≤ j) (hloc : D'.loc = some (j, a))
      (hword : D'.y = subtractAt (codeView s) D.y j a) (hc : D'.flags.corrected = true)
      (hp : D'.flags.punctured = false)

theorem Located.set_parity {s : State} {S : Nat → Nat} {D D' : Decoding} (hl : Located s S D D') (p : Nat) :
    Located s S D { D' with p := p } := by
  cases hl with
  | nowhere hloc hword hc hp => exact .nowhere hloc hword hc hp
  | puncturedAt j a hmatch hj hloc hword hc hp => exact .puncturedAt j a hmatch hj hloc hword hc hp
  | correctedAt j a hmatch hj hloc hword hc hp => exact .correctedAt j a hmatch hj hloc hword hc hp

/-- What the steps behind the erasures make of the filled word and its flags, S its syndrome (R247 to R251). -/
structure Corrects (s : State) (S : Nat → Nat) (D D' : Decoding) : Prop where
  classic : s.cvarB ≠ 2 ∨ D.flags.parityErased = true → ClassicFlags s S D'.flags
  extended : s.cvarB = 2 → D.flags.parityErased = false →
    ExtendedFlags s S (parityCheck (codeView s) D) D'.flags
  located : Located s S D D'
  sameErasureFlags : SameErasureFlags D.flags D'.flags
  /-- the parity symbol of an Extended word is recomputed if it is erased, and with a correction or a fix -/
  parityComputed : s.cvarB = 2 →
    D.flags.parityErased = true ∨ D'.flags.corrected = true ∨ D'.flags.parityFixed = true →
      D'.p = overallParity (codeView s) D'.y
  parityKept : D.flags.parityErased = false → D'.flags.corrected = false → D'.flags.parityFixed = false → D'.p = D.p

section Correct

variable {s : State} (h : CodeOk s) {S1 : List Nat} {S : Nat → Nat} (hS : ∀ i < s.fmB.toNat, S i = at0 S1 i)
  (hlen : S1.length = s.fmB.toNat) {D : Decoding} (hD : Undecided D)

include hlen hS

theorem isZero_iff_syndrome : isZero S1 = true ↔ ∀ i < s.fmB.toNat, S i = 0 := by
  rw [isZero_iff, hlen]
  exact forall₂_congr fun i hi => by rw [hS i hi]

theorem exists_ne_zero_of_not_isZero (hz : ¬ isZero S1 = true) : ∃ i < s.fmB.toNat, S i ≠ 0 := by
  simpa using mt (isZero_iff_syndrome hS hlen).2 hz

include h hD

/-- Classic, Shortened and Extended with the parity symbol erased (R247, R249, R251). -/
theorem CodeOk.correctClassic_spec :
    ClassicFlags s S (correctClassic (codeView s) S1 D).flags ∧
      Located s S D (correctClassic (codeView s) S1 D) ∧
      SameErasureFlags D.flags (correctClassic (codeView s) S1 D).flags ∧ (correctClassic (codeView s) S1 D).p = D.p := by
  obtain ⟨hloc, hcor, hdet, hfix, hdbl, hpun⟩ := hD
  have hcor' := Bool.eq_false_iff.1 hcor
  have hdet' := Bool.eq_false_iff.1 hdet
  have hpun' := Bool.eq_false_iff.1 hpun
  unfold correctClassic
  split
  · rename_i hz
    have hzero : ¬ ∃ i < s.fmB.toNat, S i ≠ 0 := fun ⟨i, hi, hne⟩ => hne ((isZero_iff_syndrome hS hlen).1 hz i hi)
    exact ⟨⟨iff_of_false hcor' fun hm => hzero hm.1, iff_of_false hpun' fun hm => hzero hm.1,
      iff_of_false hdet' fun hm => hzero hm.1, hfix, hdbl⟩, .nowhere hloc rfl hcor hpun, rfl, rfl⟩
  · rename_i hz
    have hne := exists_ne_zero_of_not_isZero hS hlen hz
    split
    · rename_i j a hsearch
      have hmatch := h.syndromeMatches_of_searchError hS hsearch
      split
      · rename_i hj
        have hnot : ¬ ∃ j a, SyndromeMatches s S j a ∧ s.csB.toNat ≤ j := fun ⟨j', a', hm, hj'⟩ =>
          (hj'.trans_eq (hmatch.unique h hm).1.symm).not_gt hj
        exact ⟨⟨iff_of_false hcor' fun hm => hnot hm.2, iff_of_true rfl ⟨hne, j, a, hmatch, hj⟩,
          iff_of_true rfl ⟨hne, hcor⟩, hfix, hdbl⟩, .puncturedAt j a hmatch hj rfl rfl hcor rfl, rfl, rfl⟩
      · rename_i hj
        have hnot : ¬ ∃ j a, SyndromeMatches s S j a ∧ j < s.csB.toNat := fun ⟨j', a', hm, hj'⟩ =>
          hj ((hmatch.unique h hm).1.trans_lt hj')
        exact ⟨⟨iff_of_true rfl ⟨hne, j, a, hmatch, Nat.not_lt.1 hj⟩, iff_of_false hpun' fun hm => hnot hm.2,
          iff_of_false hdet' fun hm => Bool.false_ne_true hm.2.symm, hfix, hdbl⟩,
          .correctedAt j a hmatch (Nat.not_lt.1 hj) rfl rfl rfl hpun, rfl, rfl⟩
    · rename_i hsearch
      have hnone := h.not_syndromeMatches_of_searchError hS hsearch
      exact ⟨⟨iff_of_false hcor' fun ⟨_, j, a, hm, _⟩ => hnone j a hm, iff_of_false hpun' fun ⟨_, j, a, hm, _⟩ => hnone j a hm,
        iff_of_true rfl ⟨hne, hcor⟩, hfix, hdbl⟩, .nowhere hloc rfl hcor hpun, rfl, rfl⟩

/-- Extended with a known parity symbol (R250). -/
theorem CodeOk.correctExtended_spec (hvar : s.cvarB = 2) :
    ExtendedFlags s S (parityCheck (codeView s) D) (correctExtended (codeView s) S1 D).flags ∧
      Located s S D (correctExtended (codeView s) S1 D) ∧
      SameErasureFlags D.flags (correctExtended (codeView s) S1 D).flags ∧
      ((correctExtended (codeView s) S1 D).flags.corrected = true ∨
          (correctExtended (codeView s) S1 D).flags.parityFixed = true →
        (correctExtended (codeView s) S1 D).p = overallParity (codeView s) (correctExtended (codeView s) S1 D).y) ∧
      ((correctExtended (codeView s) S1 D).flags.corrected = false →
        (correctExtended (codeView s) S1 D).flags.parityFixed = false →
          (correctExtended (codeView s) S1 D).p = D.p) := by
  obtain ⟨hloc, hcor, hdet, hfix, hdbl, hpun⟩ := hD
  have hcor' := Bool.eq_false_iff.1 hcor
  have hdet' := Bool.eq_false_iff.1 hdet
  have hfix' := Bool.eq_false_iff.1 hfix
  have hdbl' := Bool.eq_false_iff.1 hdbl
  have hboth := not_or.2 ⟨hcor', hfix'⟩
  unfold correctExtended
  split
  · rename_i hz
    have hS0 := (isZero_iff_syndrome hS hlen).1 hz
    have hzero : ¬ ∃ i < s.fmB.toNat, S i ≠ 0 := fun ⟨i, hi, hne⟩ => hne (hS0 i hi)
    split
    · rename_i hpar
      exact ⟨⟨iff_of_false hfix' fun hm => hm.2 hpar, iff_of_false hcor' fun hm => hzero hm.1,
        iff_of_false hdbl' fun hm => hzero hm.1, iff_of_false hdet' fun hm => hzero hm.1, hpun⟩,
        .nowhere hloc rfl hcor hpun, rfl, fun hm => absurd hm hboth, fun _ _ => rfl⟩
    · rename_i hpar
      exact ⟨⟨iff_of_true rfl ⟨hS0, hpar⟩, iff_of_false hcor' fun hm => hzero hm.1,
        iff_of_false hdbl' fun hm => hzero hm.1, iff_of_false hdet' fun hm => hzero hm.1, hpun⟩,
        .nowhere hloc rfl hcor hpun, rfl, fun _ => rfl, fun _ hm => absurd hm Bool.false_ne_true.symm⟩
  · rename_i hz
    have hne := exists_ne_zero_of_not_isZero hS hlen hz
    have hnot : ¬ ∀ i < s.fmB.toNat, S i = 0 := mt (isZero_iff_syndrome hS hlen).2 hz
    split
    · rename_i hpar
      exact ⟨⟨iff_of_false hfix' fun hm => hnot hm.1, iff_of_false hcor' fun hm => hm.2.1 hpar,
        iff_of_true rfl ⟨hne, hpar⟩, iff_of_true rfl ⟨hne, hcor⟩, hpun⟩,
        .nowhere hloc rfl hcor hpun, rfl, fun hm => absurd hm hboth, fun _ _ => rfl⟩
    · rename_i hpar
      split
      · rename_i j a hsearch
        have hmatch := h.syndromeMatches_of_searchError hS hsearch
        exact ⟨⟨iff_of_false hfix' fun hm => hnot hm.1, iff_of_true rfl ⟨hne, hpar, j, a, hmatch⟩,
          iff_of_false hdbl' fun hm => hpar hm.2, iff_of_false hdet' fun hm => Bool.false_ne_true hm.2.symm, hpun⟩,
          .correctedAt j a hmatch ((h.csB_extended hvar).trans_le j.zero_le) rfl rfl rfl hpun, rfl,
          fun _ => rfl, fun hm => absurd hm Bool.false_ne_true.symm⟩
      · rename_i hsearch
        have hnone := h.not_syndromeMatches_of_searchError hS hsearch
        exact ⟨⟨iff_of_false hfix' fun hm => hnot hm.1, iff_of_false hcor' fun ⟨_, _, j, a, hm⟩ => hnone j a hm,
          iff_of_false hdbl' fun hm => hpar hm.2, iff_of_true rfl ⟨hne, hcor⟩, hpun⟩,
          .nowhere hloc rfl hcor hpun, rfl, fun hm => absurd hm hboth, fun _ _ => rfl⟩

/-- The corrections of every variant. -/
theorem CodeOk.correctError_spec : Corrects s S D (correctError (codeView s) S1 D) := by
  obtain ⟨hflags, hlocated, hsame, hp⟩ := h.correctClassic_spec hS hlen hD
  by_cases hvar : s.cvarB = 2
  · by_cases hpe : D.flags.parityErased = true
    · rw [correctError, if_pos ((extended_iff s).2 hvar), if_pos hpe]
      exact ⟨fun _ => hflags, fun _ hm => absurd (hpe.symm.trans hm) Bool.false_ne_true.symm, hlocated.set_parity _, hsame,
        fun _ _ => rfl, fun hm => absurd (hpe.symm.trans hm) Bool.false_ne_true.symm⟩
    · obtain ⟨hflags, hlocated, hsame, hcomputed, hkept⟩ := h.correctExtended_spec hS hlen hD hvar
      rw [correctError, if_pos ((extended_iff s).2 hvar), if_neg hpe]
      exact ⟨fun hm => absurd hm (not_or.2 ⟨not_not.2 hvar, hpe⟩), fun _ _ => hflags, hlocated, hsame,
        fun _ hm => hcomputed (hm.resolve_left hpe), fun _ => hkept⟩
  · rw [correctError, if_neg (mt (extended_iff s).1 hvar)]
    exact ⟨fun _ => hflags, fun hm => absurd hm hvar, hlocated, hsame, fun hm => absurd hm hvar, fun _ _ _ => hp⟩

end Correct

end Sys2Proof.Machine
end

section
/-! SUPPORT. The word HDEC decides on (spec/43_syndrome_decoder.md R242 to R246): the received word with its erasures filled,
its syndrome, and the flags of the erasures. -/

namespace Sys2Proof.Machine

open Sys2Proof

/-! ### The filled word -/

/-- The padded word with the erased positions filled where their system is solved (R244). -/
def filledWord (s : State) : List Nat :=
  match solveErasures (codeView s) (erasedPositions (codeView s) (wireIn s) (erasList s)) (receivedSyndrome s) with
  | some x => fillPositions (paddedWord (codeView s) (wireIn s) (erasList s))
      (erasedPositions (codeView s) (wireIn s) (erasList s)) x
  | none => paddedWord (codeView s) (wireIn s) (erasList s)

/-- The wire symbol j of the filled word. -/
def filledSymbol (s : State) (j : Nat) : Nat := at0 (filledWord s) (s.csB.toNat + j)

/-- The flags of the erasures (R242, R244). -/
def erasureFlags (s : State) : DStat :=
  let solved := (solveErasures (codeView s) (erasedPositions (codeView s) (wireIn s) (erasList s))
    (receivedSyndrome s)).isSome
  let erased := !(erasedWire s).isEmpty
  { DStat.clear with
    erased := erased, erasOk := erased && solved, erasFail := erased && !solved
    parityErased := parityErased (codeView s) (wireIn s) (erasList s) }

/-- The decoding of the received word once its erasures are resolved (R242 to R244). -/
def resolved (s : State) : Decoding :=
  { y := filledWord s
    p := if (codeView s).extended then at0 (knownWord (codeView s) (wireIn s) (erasList s)) s.cnB.toNat else 0
    loc := none
    flags := erasureFlags s }

theorem resolveErasures_eq (s : State) : resolveErasures (codeView s) (wireIn s) (erasList s) = resolved s := by
  have hwire : (erasedPositions (codeView s) (wireIn s) (erasList s)).isEmpty = (erasedWire s).isEmpty :=
    List.isEmpty_map
  by_cases hempty : (erasedPositions (codeView s) (wireIn s) (erasList s)).isEmpty = true
  · have hword : filledWord s = paddedWord (codeView s) (wireIn s) (erasList s) := by
      rw [filledWord, List.isEmpty_iff.1 hempty]
      rfl
    refine (if_pos hempty).trans ?_
    rw [resolved, erasureFlags, hword, ← hwire, hempty]
    rfl
  · refine (if_neg hempty).trans ?_
    rw [resolved, erasureFlags, filledWord, ← hwire, Bool.eq_false_iff.2 hempty, receivedSyndrome]
    split
    · rename_i x hx
      simp only [hx]
      rfl
    · rename_i hx
      simp only [hx]
      rfl

/-- The decoding of the received word. -/
def decoding (s : State) : Decoding :=
  correctError (codeView s) (syndrome (codeView s) (filledWord s)) (resolved s)

theorem decodeWord_eq (s : State) :
    decodeWord (codeView s) (wireIn s) (erasList s) = (decoding s, syndrome (codeView s) (filledWord s)) := by
  rw [decodeWord, resolveErasures_eq]
  rfl

theorem undecided_resolved (s : State) : Undecided (resolved s) := ⟨rfl, rfl, rfl, rfl, rfl, rfl⟩

section Code

variable {s : State} (h : CodeOk s)

include h

theorem CodeOk.length_paddedWord : (paddedWord (codeView s) (wireIn s) (erasList s)).length = s.cnB.toNat := by
  have hle : s.csB.toNat < s.cnB.toNat := h.csB_lt.trans h.dims.2.1
  have hwire : (knownWord (codeView s) (wireIn s) (erasList s)).length = (codeView s).wireLen := length_tabulate _ _
  have hcov : s.cnB.toNat - s.csB.toNat ≤ (codeView s).wireLen := h.coveredLen_le_wireLen
  have hC : (codeView s).n - (codeView s).s = s.cnB.toNat - s.csB.toNat := rfl
  have hs : (codeView s).s = s.csB.toNat := rfl
  rw [paddedWord, padZeros, List.length_append, List.length_replicate, List.length_take, hwire, hC, hs]
  omega

theorem CodeOk.filledWord_of_allPivots (hall : AllPivots s) :
    filledWord s = fillPositions (paddedWord (codeView s) (wireIn s) (erasList s))
      ((erasedWire s).map (s.csB.toNat + ·)) (tabulate (erasedWire s).length (erasedValue s)) := by
  rw [filledWord, h.solveErasures_eq_some hall, erasedPositions_eq]

theorem CodeOk.filledWord_of_not_allPivots (hnot : ¬ AllPivots s) :
    filledWord s = paddedWord (codeView s) (wireIn s) (erasList s) := by
  rw [filledWord, h.solveErasures_eq_none hnot]

theorem CodeOk.length_filledWord : (filledWord s).length = s.cnB.toNat := by
  by_cases hall : AllPivots s
  · rw [h.filledWord_of_allPivots hall, length_fillPositions, h.length_paddedWord]
  · rw [h.filledWord_of_not_allPivots hall, h.length_paddedWord]

/-- Only erased positions are filled. -/
theorem CodeOk.at0_filledWord_of_not_erased {i : Nat} (hi : ∀ j ∈ erasedWire s, s.csB.toNat + j ≠ i) :
    at0 (filledWord s) i = at0 (paddedWord (codeView s) (wireIn s) (erasList s)) i := by
  by_cases hall : AllPivots s
  · rw [h.filledWord_of_allPivots hall]
    exact at0_fillPositions_of_not_mem (by simpa using hi)
  · rw [h.filledWord_of_not_allPivots hall]

theorem CodeOk.at0_filledWord_punctured {j : Nat} (hj : j < s.csB.toNat) : at0 (filledWord s) j = 0 :=
  (h.at0_filledWord_of_not_erased fun _ _ => by omega).trans (at0_paddedWord_punctured hj)

theorem CodeOk.filledSymbol_of_not_erased {j : Nat} (hj : j < coveredLen s) (her : ¬ IsErased s j) :
    filledSymbol s j = winNat s .inp j := by
  rw [filledSymbol, h.at0_filledWord_of_not_erased fun e he heq => her ?_, h.at0_paddedWord hj]
  · exact if_neg her
  · obtain rfl : e = j := Nat.add_left_cancel heq
    exact ((h.mem_erasedWire_iff e).1 he).2

theorem CodeOk.filledSymbol_of_not_allPivots (hnot : ¬ AllPivots s) {j : Nat} (hj : j < coveredLen s)
    (her : IsErased s j) : filledSymbol s j = 0 := by
  rw [filledSymbol, h.filledWord_of_not_allPivots hnot, h.at0_paddedWord hj]
  exact if_pos her

theorem CodeOk.filledSymbol_erased (hall : AllPivots s) {c : Nat} (hc : c < (erasedWire s).length) :
    filledSymbol s (at0 (erasedWire s) c) = erasedValue s c := by
  have hnodup : ((erasedWire s).map (s.csB.toNat + ·)).Nodup :=
    h.erasureSystem.nodup.map fun _ _ heq => Nat.add_left_cancel heq
  have hlt : ∀ e ∈ (erasedWire s).map (s.csB.toNat + ·),
      e < (paddedWord (codeView s) (wireIn s) (erasList s)).length := by
    intro e he
    obtain ⟨j, hj, rfl⟩ := List.mem_map.1 he
    rw [h.length_paddedWord]
    exact Nat.add_lt_of_lt_sub' ((h.mem_erasedWire_iff j).1 hj).1
  have hc' : c < ((erasedWire s).map (s.csB.toNat + ·)).length := by simpa using hc
  have hpos : at0 ((erasedWire s).map (s.csB.toNat + ·)) c = s.csB.toNat + at0 (erasedWire s) c := by
    rw [at0_eq_getElem hc', List.getElem_map, at0_eq_getElem hc]
  have hvalue := at0_fillPositions hnodup hlt (xs := tabulate (erasedWire s).length (erasedValue s)) (by simp) hc'
  rwa [hpos, at0_tabulate, if_pos hc, ← h.filledWord_of_allPivots hall] at hvalue

/-- The filled positions hold what the elimination of R244 gives them. -/
theorem CodeOk.erasuresSolved (hall : AllPivots s) : ErasuresSolved s (filledSymbol s) :=
  ⟨erasedWire s, fun c => matAt (eliminated s.fqB.toNat s.fmB.toNat (erasureGrid s) c), h.erasureSystem.sorted,
    h.erasureSystem.mem_iff, h.erasureSystem.entries, fun c hc => h.eliminatesColumn (hall c hc),
    fun _ hc => h.filledSymbol_erased hall hc⟩

theorem CodeOk.filledSymbol_lt {j : Nat} (hj : j < coveredLen s) : filledSymbol s j < s.fqB.toNat := by
  by_cases her : IsErased s j
  · by_cases hall : AllPivots s
    · obtain ⟨c, hc, rfl⟩ := h.erasureSystem.exists_at0 hj her
      obtain ⟨piv, -, hcp, hpr, -⟩ := h.eliminatesColumn (hall c hc)
      rw [h.filledSymbol_erased hall hc]
      exact (isGrid_eliminated h.field.prime.pos h.isGrid_erasureGrid _).matAt_lt h.field.prime.pos (hcp.trans_lt hpr) _
    · rw [h.filledSymbol_of_not_allPivots hall hj her]
      exact h.field.prime.pos
  · rw [h.filledSymbol_of_not_erased hj her]
    exact Nat.not_le.1 fun hle => her (.inl hle)

theorem CodeOk.at0_filledWord_lt (j : Nat) : at0 (filledWord s) j < s.fqB.toNat := by
  rcases Nat.lt_or_ge j s.csB.toNat with hlt | hge
  · rw [h.at0_filledWord_punctured hlt]
    exact h.field.prime.pos
  · rcases Nat.lt_or_ge j s.cnB.toNat with hn | hn
    · obtain ⟨i, rfl⟩ := Nat.exists_eq_add_of_le hge
      exact h.filledSymbol_lt (Nat.lt_sub_of_add_lt (Nat.add_comm _ _ ▸ hn))
    · rw [at0_of_length_le (h.length_filledWord.trans_le hn)]
      exact h.field.prime.pos

/-! ### The flags of the erasures -/

theorem CodeOk.isSome_solveErasures_iff :
    (solveErasures (codeView s) (erasedPositions (codeView s) (wireIn s) (erasList s)) (receivedSyndrome s)).isSome = true ↔
      AllPivots s := by
  by_cases hall : AllPivots s
  · rw [h.solveErasures_eq_some hall]
    exact iff_of_true rfl hall
  · rw [h.solveErasures_eq_none hall]
    exact iff_of_false Bool.false_ne_true hall

theorem CodeOk.erased_iff : (erasureFlags s).erased = true ↔ ∃ j < coveredLen s, IsErased s j := by
  refine (Bool.not_eq_true' _).to_iff.trans (List.isEmpty_eq_false_iff_exists_mem.trans ?_)
  exact exists_congr h.mem_erasedWire_iff

theorem CodeOk.erasOk_iff :
    (erasureFlags s).erasOk = true ↔ (∃ j < coveredLen s, IsErased s j) ∧ AllPivots s :=
  Bool.and_eq_true_iff.trans (and_congr h.erased_iff h.isSome_solveErasures_iff)

theorem CodeOk.erasFail_iff :
    (erasureFlags s).erasFail = true ↔ (∃ j < coveredLen s, IsErased s j) ∧ ¬ AllPivots s :=
  Bool.and_eq_true_iff.trans (and_congr h.erased_iff
    ((Bool.not_eq_true' _).to_iff.trans (Bool.eq_false_iff.trans (not_congr h.isSome_solveErasures_iff))))

omit h in
theorem parityErased_iff :
    (erasureFlags s).parityErased = true ↔ s.cvarB = 2 ∧ IsErased s s.cnB.toNat := by
  refine Bool.and_eq_true_iff.trans ((and_congr_left' (extended_iff s)).trans (and_congr_right fun hvar => ?_))
  exact erasedAt_iff (parityPosition_lt hvar)

end Code

end Sys2Proof.Machine
end

section
/-! SUPPORT. What HDEC leaves (spec/43_syndrome_decoder.md R240 to R252): its completion, its windows, and the relation of its
outputs to the filled word. -/

namespace Sys2Proof.Machine

open Sys2Proof

/-! ### Windows side by side -/

theorem winBase_injective {w w' : Win} (h : winBase w = winBase w') : w = w' := by
  obtain ⟨-, -, -, hw⟩ := winOrder_winBase w
  obtain ⟨-, -, -, hw'⟩ := winOrder_winBase w'
  rw [h] at hw
  exact Option.some.inj (hw.symm.trans hw')

/-- A list stored in one window leaves what another holds. -/
theorem Holds.setWin_of_ne {u : State} {w w' : Win} {p vs : List Nat} (h : Holds u w p) (hwf : Memory.wf u.win = true)
    (hne : w ≠ w') (hp : p.length ≤ 1024) (hvs : vs.length ≤ 1024) : Holds (setWin u w' vs) w p := by
  intro i hi
  have hbase := mt winBase_injective hne
  obtain ⟨-, -, hmod, -⟩ := winOrder_winBase w
  obtain ⟨-, -, hmod', -⟩ := winOrder_winBase w'
  rw [winNat, setWin_winWord_outside u hwf w' w vs i fun k hk => by omega]
  exact h i hi

theorem winNat_congr {s u : State} (hwin : s.win = u.win) (hepoch : s.epoch = u.epoch) (w : Win) (i : Nat) :
    winNat s w i = winNat u w i := by
  simp only [winNat, winWord, State.wordAt, State.byteAt, hwin, hepoch]

/-! ### The completion of HDEC -/

/-- The completion of HDEC by its result. -/
def hdecState (s : State) : State :=
  complete .noError 0 (putDecoding s (decoding s) (syndrome (codeView s) (filledWord s)))

theorem exec_hdec_ok {s : State} (h : CodeOk s) (heras : ErasuresOk s) :
    exec .hdec s = .next (hdecState s) := by
  refine (conclude_bind_ok (needCode_ok h.field.valid h.valid) _).trans
    ((conclude_bind_ok (checkErasures_ok heras) _).trans ?_)
  rw [decodeWord_eq]
  rfl

/-- The wire word that HDEC writes. -/
def decodedWire (s : State) : List Nat := wireWord (codeView s) (decoding s).y (decoding s).p

/-- The information word that HDEC writes. -/
def decodedInfo (s : State) : List Nat :=
  tabulate (codeView s).infoLen fun i => at0 (decoding s).y (s.csB.toNat + i)

/-- The state with the words of HDEC stored. -/
def hdecStored (s : State) : State :=
  setWin (setWin (setWin s .out (decodedWire s)) .info (decodedInfo s)) .syn (syndrome (codeView s) (filledWord s))

theorem winNat_hdecState (s : State) (w : Win) (i : Nat) : winNat (hdecState s) w i = winNat (hdecStored s) w i :=
  winNat_congr rfl rfl w i

section Code

variable {s : State} (h : CodeOk s)

include h

theorem CodeOk.at0_filledSyndrome {i : Nat} (hi : i < s.fmB.toNat) :
    at0 (syndrome (codeView s) (filledWord s)) i = rowTimes s i (filledSymbol s) :=
  h.at0_syndrome (fun _ => h.at0_filledWord_punctured) hi

theorem CodeOk.corrects {S : Nat → Nat} (hS : ∀ i < s.fmB.toNat, S i = rowTimes s i (filledSymbol s)) :
    Corrects s S (resolved s) (decoding s) :=
  h.correctError_spec (fun i hi => (hS i hi).trans (h.at0_filledSyndrome hi).symm)
    ((length_syndrome _ _).trans h.r_eq) (undecided_resolved s)

theorem CodeOk.wireLen_le (hp : s.params.wf = true) : (codeView s).wireLen ≤ 1024 := by
  have hbuf := nbuf_le_of_wf hp
  have hdepth := h.depth
  obtain ⟨hk, hkn, -⟩ := h.dims
  rcases eq_or_ne s.cvarB 2 with hvar | hvar
  · rw [wireLen_extended hvar]
    omega
  · rw [h.wireLen_eq hvar, coveredLen]
    omega

theorem CodeOk.at0_subtractAt {e : Nat} (he : e < s.cnB.toNat) (a j : Nat) :
    at0 (subtractAt (codeView s) (filledWord s) e a) j =
      if j = e then subQ s.fqB.toNat (at0 (filledWord s) e) a else at0 (filledWord s) j :=
  at0_set (he.trans_eq h.length_filledWord.symm) _ _

/-- The decoded word is one of digits. -/
theorem CodeOk.at0_decoding_lt (j : Nat) : at0 (decoding s).y j < s.fqB.toNat := by
  have hfilled := h.at0_filledWord_lt
  cases (h.corrects fun _ _ => rfl).located with
  | nowhere hloc hword hc hp => exact hword ▸ hfilled j
  | puncturedAt e a hmatch he hloc hword hc hp => exact hword ▸ hfilled j
  | correctedAt e a hmatch he hloc hword hc hp =>
    rw [hword, show (resolved s).y = filledWord s from rfl, h.at0_subtractAt hmatch.1]
    split
    · exact subQ_lt h.field.prime.pos
    · exact hfilled j

theorem CodeOk.receivedSymbol_lt (j : Nat) : receivedSymbol s j < s.fqB.toNat := by
  by_cases her : IsErased s j
  · exact (if_pos her : receivedSymbol s j = 0).trans_lt h.field.prime.pos
  · exact (if_neg her : receivedSymbol s j = winNat s .inp j).trans_lt (Nat.not_le.1 fun hle => her (.inl hle))

omit h in
theorem resolved_parity (hvar : s.cvarB = 2) : (resolved s).p = receivedSymbol s s.cnB.toNat :=
  (if_pos ((extended_iff s).2 hvar)).trans
    (at0_knownWord (parityPosition_lt hvar))

theorem CodeOk.decoding_parity_lt (hvar : s.cvarB = 2) : (decoding s).p < s.fqB.toNat := by
  have hcor := h.corrects (S := fun i => rowTimes s i (filledSymbol s)) fun _ _ => rfl
  have hcomputed := (overallParity_spec (C := codeView s) h.field.prime.pos (decoding s).y).1
  by_cases hpe : (resolved s).flags.parityErased = true
  · exact (hcor.parityComputed hvar (.inl hpe)).trans_lt hcomputed
  by_cases hc : (decoding s).flags.corrected = true
  · exact (hcor.parityComputed hvar (.inr (.inl hc))).trans_lt hcomputed
  by_cases hf : (decoding s).flags.parityFixed = true
  · exact (hcor.parityComputed hvar (.inr (.inr hf))).trans_lt hcomputed
  rw [hcor.parityKept (Bool.eq_false_iff.2 hpe) (Bool.eq_false_iff.2 hc) (Bool.eq_false_iff.2 hf), resolved_parity hvar]
  exact h.receivedSymbol_lt _

theorem CodeOk.at0_decodedWire {j : Nat} (hj : j < coveredLen s) :
    at0 (decodedWire s) j = at0 (decoding s).y (s.csB.toNat + j) := h.at0_wireWord _ _ hj

/-- A wire position that H does not cover is the parity symbol of an Extended word. -/
theorem CodeOk.extended_of_coveredLen_le {j : Nat} (hj : j < (codeView s).wireLen) (hcov : coveredLen s ≤ j) :
    s.cvarB = 2 ∧ j = s.cnB.toNat := by
  rcases eq_or_ne s.cvarB 2 with hvar | hvar
  · rw [wireLen_extended hvar] at hj
    rw [h.coveredLen_extended hvar] at hcov
    exact ⟨hvar, by omega⟩
  · rw [h.wireLen_eq hvar] at hj
    omega

theorem CodeOk.at0_decodedWire_lt {j : Nat} (hj : j < (codeView s).wireLen) : at0 (decodedWire s) j < s.fqB.toNat := by
  rcases Nat.lt_or_ge j (coveredLen s) with hlt | hge
  · rw [h.at0_decodedWire hlt]
    exact h.at0_decoding_lt _
  · obtain ⟨hvar, rfl⟩ := h.extended_of_coveredLen_le hj hge
    rw [decodedWire, at0_wireWord_parity hvar]
    exact h.decoding_parity_lt hvar

/-- What HDEC leaves in the windows it stores to (R252). -/
theorem CodeOk.holds_hdecState (hinv : Inv s) :
    Holds (hdecState s) .out (decodedWire s) ∧ Holds (hdecState s) .info (decodedInfo s) ∧
      Holds (hdecState s) .syn (syndrome (codeView s) (filledWord s)) := by
  simp only [Holds, winNat_hdecState]
  have hp := hinv.params
  have hwire : (decodedWire s).length ≤ 1024 := (length_wireWord ..).trans_le (h.wireLen_le hp)
  have hinfo : (decodedInfo s).length ≤ 1024 := (length_tabulate ..).trans_le (h.infoLen_le_wireLen.trans (h.wireLen_le hp))
  have hsyn : (syndrome (codeView s) (filledWord s)).length ≤ 1024 := by
    have hlen := h.length_eq
    have hdepth := h.depth
    have hbuf := nbuf_le_of_wf hp
    rw [length_syndrome, h.r_eq]
    omega
  have hw0 := hinv.memory
  have hw1 := setWin_wf s hw0 .out (decodedWire s)
  have hw2 := setWin_wf _ hw1 .info (decodedInfo s)
  have hout : Holds (setWin s .out (decodedWire s)) .out (decodedWire s) :=
    h.holds_setWin_digits hw0 .out fun i hi => h.at0_decodedWire_lt (hi.trans_eq (length_wireWord ..))
  have hdigits : ∀ i < (decodedInfo s).length, at0 (decodedInfo s) i < s.fqB.toNat := fun i hi => by
    rw [decodedInfo, at0_tabulate, if_pos (hi.trans_eq (length_tabulate ..))]
    exact h.at0_decoding_lt _
  have hinf := h.holds_setWin_digits hw1 .info hdigits
  refine ⟨(hout.setWin_of_ne hw1 (by decide) hwire hinfo).setWin_of_ne hw2 (by decide) hwire hsyn,
    hinf.setWin_of_ne hw2 (by decide) hinfo hsyn, h.holds_setWin_digits hw2 .syn fun i hi => ?_⟩
  rw [h.at0_filledSyndrome (hi.trans_eq ((length_syndrome ..).trans h.r_eq))]
  exact Nat.mod_lt _ h.field.prime.pos

end Code

end Sys2Proof.Machine
end

section
/-! SUPPORT. The outcome of HDEC (spec/43_syndrome_decoder.md R242 to R252), said once of the state it leaves: every statement
about HDEC is read from it. -/

namespace Sys2Proof.Machine

open Sys2Proof

/-- HDEC leaves the state t, having decided on the word `fill`. -/
structure HdecOutcome (s t : State) (fill : Nat → Nat) : Prop where
  noError : t.errcode = .noError
  /-- the received word with its erasures filled (R243 to R245) -/
  fill_lt : ∀ j < coveredLen s, fill j < s.fqB.toNat
  fill_received : ∀ j < coveredLen s, ¬ IsErased s j → fill j = winNat s .inp j
  fill_failed : ∀ j < coveredLen s, IsErased s j → t.dstat.erasFail = true → fill j = 0
  fill_solved : t.dstat.erasOk = true → ErasuresSolved s fill
  /-- the flags of the erasures (R242, R244) -/
  erased_iff : t.dstat.erased = true ↔ ∃ j < coveredLen s, IsErased s j
  erasOk_iff : t.dstat.erasOk = true ↔ (∃ j < coveredLen s, IsErased s j) ∧ ErasedIndependent s
  erasFail_iff : t.dstat.erasFail = true ↔ (∃ j < coveredLen s, IsErased s j) ∧ ¬ ErasedIndependent s
  parityErased_iff : t.dstat.parityErased = true ↔ s.cvarB = 2 ∧ IsErased s s.cnB.toNat
  bchFlags : t.dstat.bszero = false ∧ t.dstat.lmismatch = false ∧ t.dstat.buncorr = false
  /-- the syndrome of the filled word and the flags that follow from it (R246 to R251) -/
  syndrome : ∀ i < s.fmB.toNat, winNat t .syn i = rowTimes s i fill
  classic : s.cvarB ≠ 2 ∨ t.dstat.parityErased = true → ClassicFlags s (winNat t .syn) t.dstat
  extended : s.cvarB = 2 → t.dstat.parityErased = false →
    ExtendedFlags s (winNat t .syn) ((sumBelow s.cnB.toNat fill + winNat s .inp s.cnB.toNat) % s.fqB.toNat) t.dstat
  /-- the location reported, if any (R252) -/
  location : (t.result0 = 0xFFFFFFFF ∧ t.result1 = 0 ∧ t.dstat.corrected = false ∧ t.dstat.punctured = false) ∨
    (SyndromeMatches s (winNat t .syn) t.result0.toNat t.result1.toNat ∧
      (t.dstat.corrected = true ∧ t.dstat.punctured = false ∧ s.csB.toNat ≤ t.result0.toNat ∨
        t.dstat.corrected = false ∧ t.dstat.punctured = true ∧ t.result0.toNat < s.csB.toNat))
  /-- the words written (R252) -/
  out : ∀ j < coveredLen s, winNat t .out j =
    if t.dstat.corrected = true ∧ t.result0.toNat = s.csB.toNat + j
    then (fill j + (s.fqB.toNat - t.result1.toNat)) % s.fqB.toNat else fill j
  out_lt : ∀ j < (codeView s).wireLen, winNat t .out j < s.fqB.toNat
  info : ∀ i < (codeView s).infoLen, winNat t .info i = winNat t .out i
  /-- the parity symbol of an Extended word (R250, R251) -/
  parityComputed : s.cvarB = 2 →
    t.dstat.parityErased = true ∨ t.dstat.corrected = true ∨ t.dstat.parityFixed = true →
      sumBelow (s.cnB.toNat + 1) (winNat t .out) % s.fqB.toNat = 0
  parityKept : s.cvarB = 2 → t.dstat.parityErased = false → t.dstat.corrected = false →
    t.dstat.parityFixed = false → winNat t .out s.cnB.toNat = winNat s .inp s.cnB.toNat

theorem subQ_eq_add_mod {q x a : Nat} (hx : x < q) (ha : a < q) : subQ q x a = (x + (q - a)) % q := by
  have hq : 0 < q := by omega
  have hsum : subQ q x a + a ≡ x + (q - a) + a [MOD q] := by
    rw [Nat.ModEq, subQ_add_mod hx, Nat.add_assoc, Nat.sub_add_cancel ha.le, Nat.add_mod_right, Nat.mod_eq_of_lt hx]
  rw [← Nat.mod_eq_of_lt (subQ_lt hq : subQ q x a < q)]
  exact Nat.ModEq.add_right_cancel' a hsum

theorem SameErasureFlags.eqs {d d' : DStat} (h : SameErasureFlags d d') :
    d'.erased = d.erased ∧ d'.erasOk = d.erasOk ∧ d'.erasFail = d.erasFail ∧ d'.parityErased = d.parityErased ∧
      d'.bszero = d.bszero ∧ d'.lmismatch = d.lmismatch ∧ d'.buncorr = d.buncorr := by
  rw [SameErasureFlags] at h
  rw [h]
  exact ⟨rfl, rfl, rfl, rfl, rfl, rfl, rfl⟩

theorem hdecState_results (s : State) {j a : Nat} (hloc : (decoding s).loc = some (j, a)) :
    (hdecState s).result0 = toWord j ∧ (hdecState s).result1 = toWord a := by
  simp [hdecState, complete, putDecoding, hloc]

theorem hdecState_results_nowhere (s : State) (hloc : (decoding s).loc = none) :
    (hdecState s).result0 = 0xFFFFFFFF ∧ (hdecState s).result1 = 0 := by
  simp [hdecState, complete, putDecoding, hloc]

section Code

variable {s : State} (h : CodeOk s)

include h

theorem CodeOk.length_lt_word : s.cnB.toNat < 0xFFFFFFFF := by
  have horder : s.cnB.toNat ≤ s.fsize.toNat - 1 := h.length_le_order
  have hsize := s.fsize.isLt
  omega

/-- A location and a magnitude fit the result registers. -/
theorem CodeOk.toNat_location {S : Nat → Nat} {j a : Nat} (hm : SyndromeMatches s S j a) :
    (toWord j).toNat = j ∧ (toWord a).toNat = a := by
  have hn := h.length_lt_word
  have hq := s.fqB.isLt
  obtain ⟨hj, -, ha, -⟩ := hm
  rw [BitVec.toNat_ofNat, BitVec.toNat_ofNat]
  exact ⟨Nat.mod_eq_of_lt (by omega), Nat.mod_eq_of_lt (by omega)⟩

theorem CodeOk.hdecOutcome (hinv : Inv s) : HdecOutcome s (hdecState s) (filledSymbol s) := by
  obtain ⟨hout, hinfo, hsyn⟩ := h.holds_hdecState hinv
  have hsyn' (i : Nat) (hi : i < s.fmB.toNat) : winNat (hdecState s) .syn i = rowTimes s i (filledSymbol s) :=
    (hsyn i (hi.trans_eq ((length_syndrome ..).trans h.r_eq).symm)).trans (h.at0_filledSyndrome hi)
  have hwire (j : Nat) (hj : j < (codeView s).wireLen) : winNat (hdecState s) .out j = at0 (decodedWire s) j :=
    hout j (hj.trans_eq (length_wireWord ..).symm)
  have hcovered (j : Nat) (hj : j < coveredLen s) :
      winNat (hdecState s) .out j = at0 (decoding s).y (s.csB.toNat + j) :=
    (hwire j (hj.trans_le h.coveredLen_le_wireLen)).trans (h.at0_decodedWire hj)
  have hparity (hvar : s.cvarB = 2) : winNat (hdecState s) .out s.cnB.toNat = (decoding s).p :=
    (hwire _ (parityPosition_lt hvar)).trans (at0_wireWord_parity hvar _ _)
  have hcor := h.corrects hsyn'
  obtain ⟨herased, herasOk, herasFail, hpe, hbsz, hlm, hbun⟩ := hcor.sameErasureFlags.eqs
  have hpe' : (hdecState s).dstat.parityErased = (resolved s).flags.parityErased := hpe
  refine
    { noError := rfl
      fill_lt := fun j hj => h.filledSymbol_lt hj
      fill_received := fun j hj her => h.filledSymbol_of_not_erased hj her
      fill_failed := fun j hj her hfail =>
        h.filledSymbol_of_not_allPivots (h.erasFail_iff.1 (herasFail ▸ hfail)).2 hj her
      fill_solved := fun hok => h.erasuresSolved (h.erasOk_iff.1 (herasOk ▸ hok)).2
      erased_iff := (congrArg (· = true) herased).to_iff.trans h.erased_iff
      erasOk_iff := (congrArg (· = true) herasOk).to_iff.trans
        (h.erasOk_iff.trans (and_congr_right' h.erasedIndependent_iff.symm))
      erasFail_iff := (congrArg (· = true) herasFail).to_iff.trans
        (h.erasFail_iff.trans (and_congr_right' (not_congr h.erasedIndependent_iff.symm)))
      parityErased_iff := (congrArg (· = true) hpe).to_iff.trans parityErased_iff
      bchFlags := ⟨hbsz, hlm, hbun⟩
      syndrome := hsyn'
      classic := fun hm => hcor.classic (hpe' ▸ hm)
      extended := fun hvar hm => ?extended
      location := ?location
      out := fun j hj => ?out
      out_lt := fun j hj => (hwire j hj).trans_lt (h.at0_decodedWire_lt hj)
      info := fun i hi => ?info
      parityComputed := fun hvar hm => ?parityComputed
      parityKept := fun hvar hm hc hf => ?parityKept }
  case extended =>
    have hsum : parityCheck (codeView s) (resolved s) =
        (sumBelow s.cnB.toNat (filledSymbol s) + winNat s .inp s.cnB.toNat) % s.fqB.toNat := by
      have hreceived : receivedSymbol s s.cnB.toNat = winNat s .inp s.cnB.toNat :=
        if_neg fun her => Bool.eq_false_iff.1 (hpe'.symm.trans hm) (parityErased_iff.2 ⟨hvar, her⟩)
      rw [parityCheck, resolved_parity hvar, hreceived]
      refine congrArg (fun x => (x + winNat s .inp s.cnB.toNat) % s.fqB.toNat) (sumBelow_congr fun j _ => ?_)
      rw [filledSymbol, h.csB_extended hvar, Nat.zero_add]
      rfl
    exact hsum ▸ hcor.extended hvar (hpe' ▸ hm)
  case location =>
    cases hcor.located with
    | nowhere hloc hword hc hp =>
      obtain ⟨h0, h1⟩ := hdecState_results_nowhere s hloc
      exact .inl ⟨h0, h1, hc, hp⟩
    | puncturedAt j a hmatch hj hloc hword hc hp =>
      obtain ⟨h0, h1⟩ := hdecState_results s hloc
      obtain ⟨hj', ha'⟩ := h.toNat_location hmatch
      rw [h0, h1, hj', ha']
      exact .inr ⟨hmatch, .inr ⟨hc, hp, hj⟩⟩
    | correctedAt j a hmatch hj hloc hword hc hp =>
      obtain ⟨h0, h1⟩ := hdecState_results s hloc
      obtain ⟨hj', ha'⟩ := h.toNat_location hmatch
      rw [h0, h1, hj', ha']
      exact .inr ⟨hmatch, .inl ⟨hc, hp, hj⟩⟩
  case out =>
    have hkept (hc : (decoding s).flags.corrected = false) (hword : (decoding s).y = filledWord s) :
        winNat (hdecState s) .out j = if (decoding s).flags.corrected = true ∧
          (hdecState s).result0.toNat = s.csB.toNat + j then
            (filledSymbol s j + (s.fqB.toNat - (hdecState s).result1.toNat)) % s.fqB.toNat else filledSymbol s j := by
      rw [if_neg fun hm => Bool.eq_false_iff.1 hc hm.1, hcovered j hj, hword]
      rfl
    cases hcor.located with
    | nowhere hloc hword hc hp => exact hkept hc hword
    | puncturedAt e a hmatch he hloc hword hc hp => exact hkept hc hword
    | correctedAt e a hmatch he hloc hword hc hp =>
      obtain ⟨h0, h1⟩ := hdecState_results s hloc
      obtain ⟨he', ha'⟩ := h.toNat_location hmatch
      rw [hcovered j hj, hword, show (resolved s).y = filledWord s from rfl, h.at0_subtractAt hmatch.1, h0, h1, he', ha']
      by_cases heq : s.csB.toNat + j = e
      · rw [if_pos heq, if_pos ⟨hc, heq.symm⟩, ← heq]
        exact subQ_eq_add_mod (h.filledSymbol_lt hj) hmatch.2.2.1
      · rw [if_neg heq, if_neg fun hm => heq hm.2.symm]
        rfl
  case info =>
    have hlen : (decodedInfo s).length = (codeView s).infoLen := length_tabulate ..
    rw [hinfo i (hi.trans_eq hlen.symm), decodedInfo, at0_tabulate, if_pos hi,
      hcovered i (hi.trans_le h.infoLen_le_coveredLen)]
  case parityComputed =>
    have hsum : sumBelow s.cnB.toNat (winNat (hdecState s) .out) = sumBelow s.cnB.toNat (at0 (decoding s).y) :=
      sumBelow_congr fun j hj => by
        rw [hcovered j (hj.trans_eq (h.coveredLen_extended hvar).symm), h.csB_extended hvar, Nat.zero_add]
    rw [sumBelow_succ, hsum, hparity hvar, hcor.parityComputed hvar (hpe' ▸ hm)]
    exact (overallParity_spec (C := codeView s) h.field.prime.pos _).2
  case parityKept =>
    rw [hparity hvar, hcor.parityKept (hpe' ▸ hm) hc hf, resolved_parity hvar]
    exact if_neg fun her => Bool.eq_false_iff.1 (hpe'.symm.trans hm) (parityErased_iff.2 ⟨hvar, her⟩)

end Code

end Sys2Proof.Machine
end

section
/-! PROOFS. HDEC completes with flags that agree (O41), and writes a code word unless it only detected an error (O42)
(spec/43_syndrome_decoder.md R242 to R254). -/

namespace Sys2Proof.Machine

open Sys2Proof

/-! ### Words that differ by an error -/

theorem sumBelow_cast_add {q n : Nat} {x u : Nat → Nat} {e : Nat → ZMod q}
    (hx : ∀ j < n, (x j : ZMod q) = u j + e j) :
    (sumBelow n x : ZMod q) = sumBelow n u + ∑ j ∈ Finset.range n, e j := by
  rw [sumBelow_eq_sum, sumBelow_eq_sum, Nat.cast_sum, Nat.cast_sum, ← Finset.sum_add_distrib]
  exact Finset.sum_congr rfl fun j hj => hx j (Finset.mem_range.1 hj)

/-- The syndrome of a word that differs from u by the error e. -/
theorem rowTimes_add {s : State} {x u : Nat → Nat} {e : Nat → ZMod s.fqB.toNat}
    (hx : ∀ j < coveredLen s, (x j : ZMod s.fqB.toNat) = u j + e j) (i : Nat) :
    (rowTimes s i x : ZMod s.fqB.toNat) =
      rowTimes s i u + ∑ j ∈ Finset.range (coveredLen s), (wireH s i j : ZMod s.fqB.toNat) * e j := by
  rw [rowTimes, rowTimes, ZMod.natCast_mod, ZMod.natCast_mod]
  refine sumBelow_cast_add fun j hj => ?_
  rw [Nat.cast_mul, Nat.cast_mul, hx j hj, mul_add]

/-- A single error adds its multiple of a column of H to the syndrome. -/
theorem rowTimes_add_single {s : State} {x u : Nat → Nat} {k : Nat} {v : ZMod s.fqB.toNat} (hk : k < coveredLen s)
    (hx : ∀ j < coveredLen s, (x j : ZMod s.fqB.toNat) = u j + if j = k then v else 0) (i : Nat) :
    (rowTimes s i x : ZMod s.fqB.toNat) = rowTimes s i u + wireH s i k * v := by
  rw [rowTimes_add hx i]
  simp [hk]

/-! ### What follows from an outcome -/

section Outcome

variable {s t : State} {fill : Nat → Nat} (h : CodeOk s) (ho : HdecOutcome s t fill)

include ho

/-- Which of the two tables of R247 and R250 the flags follow. -/
theorem HdecOutcome.variant_cases :
    ClassicFlags s (winNat t .syn) t.dstat ∨
      (s.cvarB = 2 ∧ t.dstat.parityErased = false) ∧ ExtendedFlags s (winNat t .syn)
        ((sumBelow s.cnB.toNat fill + winNat s .inp s.cnB.toNat) % s.fqB.toNat) t.dstat := by
  by_cases hclassic : s.cvarB ≠ 2 ∨ t.dstat.parityErased = true
  · exact .inl (ho.classic hclassic)
  · rw [not_or, not_not, Bool.not_eq_true] at hclassic
    exact .inr ⟨hclassic, ho.extended hclassic.1 hclassic.2⟩

/-- An error is detected only where the syndrome is not 0 and nothing is corrected, whatever the variant. -/
theorem HdecOutcome.detectOnly_iff :
    t.dstat.detectOnly = true ↔ (∃ i < s.fmB.toNat, winNat t .syn i ≠ 0) ∧ t.dstat.corrected = false := by
  rcases ho.variant_cases with ⟨-, -, hdetect, -⟩ | ⟨-, -, -, -, hdetect, -⟩
  · exact hdetect
  · exact hdetect

theorem HdecOutcome.location_of_corrected (hc : t.dstat.corrected = true) :
    SyndromeMatches s (winNat t .syn) t.result0.toNat t.result1.toNat ∧ s.csB.toNat ≤ t.result0.toNat := by
  rcases ho.location with ⟨-, -, hc', -⟩ | ⟨hmatch, ⟨-, -, hle⟩ | ⟨hc', -⟩⟩
  · exact absurd hc (Bool.eq_false_iff.1 hc')
  · exact ⟨hmatch, hle⟩
  · exact absurd hc (Bool.eq_false_iff.1 hc')

theorem HdecOutcome.location_of_punctured (hp : t.dstat.punctured = true) :
    t.dstat.corrected = false ∧ SyndromeMatches s (winNat t .syn) t.result0.toNat t.result1.toNat ∧
      t.result0.toNat < s.csB.toNat := by
  rcases ho.location with ⟨-, -, -, hp'⟩ | ⟨hmatch, ⟨-, hp', -⟩ | ⟨hc, -, hlt⟩⟩
  · exact absurd hp (Bool.eq_false_iff.1 hp')
  · exact absurd hp (Bool.eq_false_iff.1 hp')
  · exact ⟨hc, hmatch, hlt⟩

theorem HdecOutcome.out_of_not_corrected (hc : t.dstat.corrected = false) {j : Nat} (hj : j < coveredLen s) :
    winNat t .out j = fill j :=
  (ho.out j hj).trans (if_neg fun hm => Bool.eq_false_iff.1 hc hm.1)

/-- The correction takes its multiple of the located column off the syndrome, which leaves 0. -/
theorem HdecOutcome.rowTimes_out_of_corrected (hc : t.dstat.corrected = true) {i : Nat} (hi : i < s.fmB.toNat) :
    rowTimes s i (winNat t .out) = 0 := by
  obtain ⟨hmatch, hle⟩ := ho.location_of_corrected hc
  obtain ⟨hlt, -, haq, hcol⟩ := hmatch
  obtain ⟨k, hk⟩ := Nat.exists_eq_add_of_le hle
  have hkcov : k < coveredLen s := by
    rw [coveredLen]
    omega
  have hword (j : Nat) (hj : j < coveredLen s) : (winNat t .out j : ZMod s.fqB.toNat) =
      fill j + if j = k then -(t.result1.toNat : ZMod s.fqB.toNat) else 0 := by
    rw [ho.out j hj]
    by_cases hjk : j = k
    · rw [if_pos ⟨hc, by rw [hk, hjk]⟩, if_pos hjk, ZMod.natCast_mod, Nat.cast_add, Nat.cast_sub haq.le,
        ZMod.natCast_self, zero_sub]
    · rw [if_neg fun hm => hjk (by omega), if_neg hjk, add_zero]
  have hsyn : (rowTimes s i fill : ZMod s.fqB.toNat) = t.result1.toNat * wireH s i k := by
    rw [← ho.syndrome i hi, hcol i hi, ZMod.natCast_mod, Nat.cast_mul, hk]
    rfl
  rw [rowTimes_eq_zero_iff, rowTimes_add_single hkcov hword, hsyn, mul_comm, mul_neg, add_neg_cancel]

/-- The word HDEC writes has syndrome 0 unless it only detected an error. -/
theorem HdecOutcome.rowTimes_out (hd : t.dstat.detectOnly = false) {i : Nat} (hi : i < s.fmB.toNat) :
    rowTimes s i (winNat t .out) = 0 := by
  by_cases hc : t.dstat.corrected = true
  · exact ho.rowTimes_out_of_corrected hc hi
  · have hc' := Bool.eq_false_iff.2 hc
    rw [rowTimes_congr (fun j hj => ho.out_of_not_corrected hc' hj) i, ← ho.syndrome i hi]
    by_contra hne
    exact Bool.eq_false_iff.1 hd ((ho.detectOnly_iff).2 ⟨⟨i, hi, hne⟩, hc'⟩)

include h

/-- A location is reported exactly with a correction or a punctured error. -/
theorem HdecOutcome.result0_ne_iff :
    t.result0 ≠ 0xFFFFFFFF ↔ t.dstat.corrected = true ∨ t.dstat.punctured = true := by
  have hfit {S : Nat → Nat} {a : Nat} (hm : SyndromeMatches s S t.result0.toNat a) : t.result0 ≠ 0xFFFFFFFF :=
    fun heq => (hm.1.trans h.length_lt_word).ne (congrArg BitVec.toNat heq)
  rcases ho.location with ⟨h0, -, hc, hp⟩ | ⟨hmatch, hcase⟩
  · exact iff_of_false (not_not.2 h0) (not_or.2 ⟨Bool.eq_false_iff.1 hc, Bool.eq_false_iff.1 hp⟩)
  · exact iff_of_true (hfit hmatch) (hcase.imp And.left fun hm => hm.2.1)

theorem HdecOutcome.match_of_result0_ne (hne : t.result0 ≠ 0xFFFFFFFF) :
    SyndromeMatches s (winNat t .syn) t.result0.toNat t.result1.toNat :=
  ((ho.result0_ne_iff h).1 hne).elim (fun hc => (ho.location_of_corrected hc).1)
    fun hp => (ho.location_of_punctured hp).2.1

theorem HdecOutcome.result0_eq_iff : t.result0 = 0xFFFFFFFF ↔ t.result1 = 0 := by
  rcases ho.location with ⟨h0, h1, -⟩ | ⟨hmatch, hcase⟩
  · exact iff_of_true h0 h1
  · refine iff_of_false ((ho.result0_ne_iff h).2 (hcase.imp And.left fun hm => hm.2.1)) fun h1 => ?_
    have hpos := hmatch.2.1
    rw [h1] at hpos
    exact absurd hpos (by decide)

/-- Unless it only detected an error, the word HDEC writes is a code word. -/
theorem HdecOutcome.isCodeword (hd : t.dstat.detectOnly = false) : IsCodeword s (winNat t .out) := by
  refine ⟨ho.out_lt, fun i hi => ho.rowTimes_out hd hi, fun hvar => ?_⟩
  by_cases hcomputed : t.dstat.parityErased = true ∨ t.dstat.corrected = true ∨ t.dstat.parityFixed = true
  · exact ho.parityComputed hvar hcomputed
  · simp only [not_or, Bool.not_eq_true] at hcomputed
    obtain ⟨hpe, hc, hf⟩ := hcomputed
    have hzero (i : Nat) (hi : i < s.fmB.toNat) : winNat t .syn i = 0 := by
      by_contra hne
      exact Bool.eq_false_iff.1 hd ((ho.detectOnly_iff).2 ⟨⟨i, hi, hne⟩, hc⟩)
    obtain ⟨hfixed, -⟩ := ho.extended hvar hpe
    rw [sumBelow_succ, ho.parityKept hvar hpe hc hf, sumBelow_congr fun j hj =>
      ho.out_of_not_corrected hc (hj.trans_eq (h.coveredLen_extended hvar).symm)]
    by_contra hne
    exact Bool.eq_false_iff.1 hf (hfixed.2 ⟨hzero, hne⟩)

end Outcome

/-- Settles O42: every clause is one of the outcome, or of the code word it leaves. -/
theorem hdecOutputsCodeword : Obligations.HdecOutputsCodeword := by
  unfold Obligations.HdecOutputsCodeword
  intro s hinv h heras
  have ho := h.hdecOutcome hinv
  refine ⟨hdecState s, filledSymbol s, exec_hdec_ok h heras, ho.isCodeword h,
    fun j hj => ⟨ho.fill_lt j hj, ho.fill_received j hj, ho.fill_failed j hj⟩, ho.syndrome, ho.fill_solved,
    fun hok hcons i hi => ?consistent, ho.classic, ho.extended, ho.match_of_result0_ne h, ho.result0_ne_iff h, ho.out,
    fun hvar hpe => ho.parityComputed hvar (.inl hpe), fun hvar hpe hd => ?detected⟩
  case consistent =>
    rw [ho.syndrome i hi]
    exact (ho.fill_solved hok).rowTimes_eq_zero ho.fill_received hcons hi
  case detected =>
    obtain ⟨hne, hc⟩ := (ho.detectOnly_iff).1 hd
    obtain ⟨hfixed, -⟩ := ho.extended hvar hpe
    obtain ⟨i, hi, hsyn⟩ := hne
    exact ho.parityKept hvar hpe hc (Bool.eq_false_iff.2 fun hf => hsyn ((hfixed.1 hf).1 i hi))

end Sys2Proof.Machine
end

section
/-! PROOFS. The flags of HDEC (O41): they agree by the outcome, and two flipped symbols of a binary Extended code word are
detected (spec/43_syndrome_decoder.md R253, R254 (d)). -/

namespace Sys2Proof.Machine

open Sys2Proof

/-! ### A word received without erasures -/

theorem not_isErased_of_nothingErased {s : State} (hn : NothingErased s) {j : Nat} (hj : j < (codeView s).wireLen) :
    ¬ IsErased s j := by
  obtain ⟨hneras, hdigit⟩ := hn
  rintro (hle | ⟨x, hx, -⟩)
  · exact absurd (hdigit j hj) (Nat.not_lt.2 hle)
  · rw [hneras] at hx
    exact absurd hx (Nat.not_lt_zero x)

theorem erasuresOk_of_neras {s : State} (hn : s.neras = 0) : ErasuresOk s := by
  rw [ErasuresOk, hn]
  exact ⟨Nat.zero_le _, fun x hx => absurd hx (Nat.not_lt_zero x)⟩

theorem sameErasureFlags_of_eqs {d d' : DStat} (herased : d'.erased = d.erased) (hok : d'.erasOk = d.erasOk)
    (hfail : d'.erasFail = d.erasFail) (hpe : d'.parityErased = d.parityErased) (hbsz : d'.bszero = d.bszero)
    (hlm : d'.lmismatch = d.lmismatch) (hbun : d'.buncorr = d.buncorr) : SameErasureFlags d d' := by
  rw [SameErasureFlags, ← herased, ← hok, ← hfail, ← hpe, ← hbsz, ← hlm, ← hbun]

section Outcome

variable {s t : State} {fill : Nat → Nat} (h : CodeOk s) (ho : HdecOutcome s t fill)

include h ho

/-- Without erasures HDEC decides on the received word and sets no flag of the erasures. -/
theorem HdecOutcome.of_nothingErased (hn : NothingErased s) :
    (∀ j < coveredLen s, fill j = winNat s .inp j) ∧ SameErasureFlags DStat.clear t.dstat := by
  have hnot {j : Nat} (hj : j < coveredLen s) : ¬ IsErased s j :=
    not_isErased_of_nothingErased hn (hj.trans_le h.coveredLen_le_wireLen)
  have hnone : ¬ ∃ j < coveredLen s, IsErased s j := fun ⟨j, hj, her⟩ => hnot hj her
  obtain ⟨hbsz, hlm, hbun⟩ := ho.bchFlags
  refine ⟨fun j hj => ho.fill_received j hj (hnot hj), sameErasureFlags_of_eqs
    (Bool.eq_false_iff.2 (mt ho.erased_iff.1 hnone)) (Bool.eq_false_iff.2 (mt ho.erasOk_iff.1 fun hm => hnone hm.1))
    (Bool.eq_false_iff.2 (mt ho.erasFail_iff.1 fun hm => hnone hm.1))
    (Bool.eq_false_iff.2 (mt ho.parityErased_iff.1 fun hm => ?_)) hbsz hlm hbun⟩
  obtain ⟨hvar, her⟩ := hm
  exact not_isErased_of_nothingErased hn (parityPosition_lt hvar) her

end Outcome

/-! ### Two flipped symbols -/

/-- The word received is a binary Extended code word c with the symbols a and b, which H covers, flipped. -/
structure TwoFlips (s : State) (c : Nat → Nat) (a b : Nat) : Prop where
  binary : s.fqB = 2
  extended : s.cvarB = 2
  unlisted : s.neras = 0
  codeword : IsCodeword s c
  left : a < s.cnB.toNat
  right : b < s.cnB.toNat
  ne : a ≠ b
  received : ∀ j < s.cnB.toNat + 1, winNat s .inp j = if j = a ∨ j = b then 1 - c j else c j

section Flips

variable {s : State} {c : Nat → Nat} {a b : Nat} (hf : TwoFlips s c a b)

include hf

theorem TwoFlips.two_eq_zero : (2 : ZMod s.fqB.toNat) = 0 := by
  have hq : s.fqB.toNat = 2 := congrArg BitVec.toNat hf.binary
  rw [← Nat.cast_two, ← hq, ZMod.natCast_self]

theorem TwoFlips.le_one {j : Nat} (hj : j < s.cnB.toNat + 1) : c j ≤ 1 := by
  have hq : s.fqB.toNat = 2 := congrArg BitVec.toNat hf.binary
  have hdigit := hf.codeword.1 j (hj.trans_eq (wireLen_extended hf.extended).symm)
  omega

theorem TwoFlips.nothingErased : NothingErased s := by
  refine ⟨hf.unlisted, fun j hj => ?_⟩
  rw [wireLen_extended hf.extended] at hj
  have hq : s.fqB.toNat = 2 := congrArg BitVec.toNat hf.binary
  have hdigit := hf.le_one hj
  rw [hf.received j hj]
  split <;> omega

/-- A flip adds 1. -/
theorem TwoFlips.cast_received {j : Nat} (hj : j < s.cnB.toNat + 1) :
    (winNat s .inp j : ZMod s.fqB.toNat) = c j + ((if j = a then 1 else 0) + if j = b then 1 else 0) := by
  have hflip : ((1 - c j : Nat) : ZMod s.fqB.toNat) = c j + 1 := by
    rw [Nat.cast_sub (hf.le_one hj), Nat.cast_one]
    linear_combination -(c j : ZMod s.fqB.toNat) * hf.two_eq_zero
  rw [hf.received j hj]
  by_cases hja : j = a
  · rw [if_pos (.inl hja), if_pos hja, if_neg fun hjb => hf.ne (hja.symm.trans hjb), add_zero, hflip]
  · by_cases hjb : j = b
    · rw [if_pos (.inr hjb), if_neg hja, if_pos hjb, zero_add, hflip]
    · rw [if_neg (not_or.2 ⟨hja, hjb⟩), if_neg hja, if_neg hjb, add_zero, add_zero]

/-- The overall sum does not see the two flips. -/
theorem TwoFlips.sum_received : sumBelow (s.cnB.toNat + 1) (winNat s .inp) % s.fqB.toNat = 0 := by
  rw [mod_eq_zero_iff_cast, sumBelow_cast_add fun j hj => hf.cast_received hj,
    mod_eq_zero_iff_cast.1 (hf.codeword.2.2 hf.extended), zero_add]
  simp [Finset.sum_add_distrib, Nat.lt_succ_of_lt hf.left, Nat.lt_succ_of_lt hf.right, one_add_one_eq_two,
    hf.two_eq_zero]

/-- The syndrome is the sum of two distinct columns of H. -/
theorem TwoFlips.exists_rowTimes_ne_zero (h : CodeOk s) : ∃ i < s.fmB.toNat, rowTimes s i (winNat s .inp) ≠ 0 := by
  by_contra! hzero
  have hcov := h.coveredLen_extended hf.extended
  have hone := h.field.prime.one_lt
  refine hf.ne (h.column_eq_of_multiples hf.left hf.right le_rfl hone le_rfl hone fun i hi => ?_)
  have hcolumns := rowTimes_add (fun j hj => hf.cast_received (Nat.lt_succ_of_lt (hj.trans_eq hcov))) i
  have hc0 : rowTimes s i c = 0 := hf.codeword.2.1 i hi
  have hwireH (j : Nat) : wireH s i j = matAt (codeView s).H i j := by
    rw [wireH, h.csB_extended hf.extended, Nat.zero_add]
  simp only [hzero i hi, hc0, hwireH, hcov, mul_add, mul_ite, mul_one, mul_zero, Finset.sum_add_distrib,
    Finset.sum_ite_eq', Finset.mem_range, hf.left, hf.right, if_true, Nat.cast_zero, zero_add] at hcolumns
  rw [one_mul, one_mul]
  refine (ZMod.natCast_eq_natCast_iff' _ _ _).1 ?_
  linear_combination hcolumns + (matAt (codeView s).H i a : ZMod s.fqB.toNat) * hf.two_eq_zero

/-- R254 (d): HDEC detects the two flips and gives the word back as received. -/
theorem TwoFlips.detected {t : State} {fill : Nat → Nat} (h : CodeOk s) (ho : HdecOutcome s t fill) :
    t.dstat = { DStat.clear with detectOnly := true, doubleDetect := true } ∧
      ∀ j < s.cnB.toNat + 1, winNat t .out j = winNat s .inp j := by
  have hcov := h.coveredLen_extended hf.extended
  obtain ⟨hfill, hflags⟩ := ho.of_nothingErased h hf.nothingErased
  obtain ⟨-, -, -, hpe, -⟩ := hflags.eqs
  have hne : ∃ i < s.fmB.toNat, winNat t .syn i ≠ 0 := by
    obtain ⟨i, hi, hne⟩ := hf.exists_rowTimes_ne_zero h
    exact ⟨i, hi, by rwa [ho.syndrome i hi, rowTimes_congr hfill]⟩
  have hpar : (sumBelow s.cnB.toNat fill + winNat s .inp s.cnB.toNat) % s.fqB.toNat = 0 := by
    rw [sumBelow_congr fun j hj => hfill j (hj.trans_eq hcov.symm), ← sumBelow_succ]
    exact hf.sum_received
  obtain ⟨hfixed, hcorrected, hdouble, hdetect, hpun⟩ := ho.extended hf.extended hpe
  have hcor : t.dstat.corrected = false := Bool.eq_false_iff.2 fun hm => (hcorrected.1 hm).2.1 hpar
  have hfix : t.dstat.parityFixed = false := Bool.eq_false_iff.2 fun hm => (hfixed.1 hm).2 hpar
  refine ⟨?_, fun j hj => ?_⟩
  · rw [hflags, hcor, hfix, hpun, hdouble.2 ⟨hne, hpar⟩, hdetect.2 ⟨hne, hcor⟩]
    rfl
  · rcases Nat.lt_succ_iff_lt_or_eq.1 hj with hlt | rfl
    · have hlt' := hlt.trans_eq hcov.symm
      rw [ho.out_of_not_corrected hcor hlt', hfill j hlt']
    · exact ho.parityKept hf.extended hpe hcor hfix

end Flips

/-- Settles O41: the flags follow from the outcome, whatever the variant. -/
theorem hdecFlags : Obligations.HdecFlags := by
  unfold Obligations.HdecFlags
  intro s hinv h heras
  have ho := h.hdecOutcome hinv
  obtain ⟨hbsz, hlm, hbun⟩ := ho.bchFlags
  refine ⟨hdecState s, exec_hdec_ok h heras, ho.noError, ho.out_lt, ho.info, ho.erased_iff, ho.parityErased_iff, ?either,
    ?notBoth, ?exclusive, fun hp => ?punctured, fun hd => ?doubleDetect, fun hf => ?parityFixed, fun hc => ?corrected,
    ho.result0_eq_iff h, hbsz, hlm, hbun, ho.erasOk_iff, fun c a b hq hvar hneras hc ha hb hab hinp =>
      (TwoFlips.mk hq hvar hneras hc ha hb hab hinp).detected h ho⟩
  case either =>
    rw [Bool.eq_iff_iff, Bool.or_eq_true, ho.erasOk_iff, ho.erasFail_iff, ho.erased_iff, ← and_or_left]
    exact and_iff_left (em _)
  case notBoth =>
    exact Bool.and_eq_false_imp.2 fun hok => Bool.eq_false_iff.2 fun hfail =>
      (ho.erasFail_iff.1 hfail).2 (ho.erasOk_iff.1 hok).2
  case exclusive =>
    exact Bool.and_eq_false_imp.2 fun hc => Bool.eq_false_iff.2 fun hd =>
      Bool.eq_false_iff.1 (ho.detectOnly_iff.1 hd).2 hc
  case punctured =>
    obtain ⟨hc, hmatch, hlt⟩ := ho.location_of_punctured hp
    refine ⟨ho.detectOnly_iff.2 ⟨hmatch.ne_zero h, hc⟩, ?_, hlt⟩
    by_contra hvar
    rw [h.csB_eq_zero hvar] at hlt
    exact Nat.not_lt_zero _ hlt
  case doubleDetect =>
    rcases ho.variant_cases with ⟨-, -, -, -, hdbl⟩ | ⟨⟨hvar, hpe⟩, -, hcorrected, hdouble, -, -⟩
    · exact absurd hd (Bool.eq_false_iff.1 hdbl)
    · obtain ⟨hne, hpar⟩ := hdouble.1 hd
      exact ⟨ho.detectOnly_iff.2 ⟨hne, Bool.eq_false_iff.2 fun hc => (hcorrected.1 hc).2.1 hpar⟩, hvar, hpe⟩
  case parityFixed =>
    rcases ho.variant_cases with ⟨-, -, -, hfix, -⟩ | ⟨⟨hvar, hpe⟩, hfixed, hcorrected, -⟩
    · exact absurd hf (Bool.eq_false_iff.1 hfix)
    · have hnot : ¬ ∃ i < s.fmB.toNat, winNat (hdecState s) .syn i ≠ 0 :=
        fun ⟨i, hi, hne⟩ => hne ((hfixed.1 hf).1 i hi)
      exact ⟨hvar, hpe, Bool.eq_false_iff.2 fun hc => hnot (hcorrected.1 hc).1,
        Bool.eq_false_iff.2 fun hd => hnot (ho.detectOnly_iff.1 hd).1⟩
  case corrected =>
    obtain ⟨hmatch, hle⟩ := ho.location_of_corrected hc
    exact ⟨hle, hmatch.1⟩

end Sys2Proof.Machine
end

section
/-! PROOFS. HDEC gives a code word back with one symbol changed (O43), with one or two erasures (O44), and as ENC wrote it
(O45) (spec/43_syndrome_decoder.md R254 (a) to (c)). -/

namespace Sys2Proof.Machine

open Sys2Proof

/-! ### Code words -/

/-- A code word is determined by the symbols that H covers: the overall sum gives the parity symbol. -/
theorem CodeOk.eq_of_isCodeword {s : State} (h : CodeOk s) {word word' : Nat → Nat} (hw : IsCodeword s word)
    (hw' : IsCodeword s word') (heq : ∀ j < coveredLen s, word j = word' j) {j : Nat} (hj : j < (codeView s).wireLen) :
    word j = word' j := by
  rcases Nat.lt_or_ge j (coveredLen s) with hlt | hge
  · exact heq j hlt
  · obtain ⟨hvar, rfl⟩ := h.extended_of_coveredLen_le hj hge
    have hsum := (hw.2.2 hvar).trans (hw'.2.2 hvar).symm
    rw [sumBelow_succ, sumBelow_succ, sumBelow_congr fun j hj => heq j (hj.trans_eq (h.coveredLen_extended hvar).symm)] at hsum
    exact (Nat.ModEq.add_left_cancel' _ hsum).eq_of_lt_of_lt (hw.1 _ hj) (hw'.1 _ hj)

/-- HDEC decided on a code word: it changes nothing, reports no location, and leaves at most the parity symbol to fix. -/
theorem HdecOutcome.of_codeword {s t : State} {fill c : Nat → Nat} (h : CodeOk s) (ho : HdecOutcome s t fill)
    (hc : IsCodeword s c) (hfill : ∀ j < coveredLen s, fill j = c j) :
    ((∀ i < s.fmB.toNat, winNat t .syn i = 0) ∧ t.result0 = 0xFFFFFFFF ∧ t.result1 = 0) ∧
      (t.dstat.corrected = false ∧ t.dstat.detectOnly = false ∧ t.dstat.doubleDetect = false ∧
        t.dstat.punctured = false) ∧
      (∀ j < (codeView s).wireLen, winNat t .out j = c j) ∧ ∀ i < (codeView s).infoLen, winNat t .info i = c i := by
  have hsyn (i : Nat) (hi : i < s.fmB.toNat) : winNat t .syn i = 0 := by
    rw [ho.syndrome i hi, rowTimes_congr hfill]
    exact hc.2.1 i hi
  have hzero : ¬ ∃ i < s.fmB.toNat, winNat t .syn i ≠ 0 := fun ⟨i, hi, hne⟩ => hne (hsyn i hi)
  have hnone (j a : Nat) : ¬ SyndromeMatches s (winNat t .syn) j a := fun hm => hzero (hm.ne_zero h)
  have hdet : t.dstat.detectOnly = false := Bool.eq_false_iff.2 fun hd => hzero (ho.detectOnly_iff.1 hd).1
  have hdbl : t.dstat.doubleDetect = false := by
    rcases ho.variant_cases with ⟨-, -, -, -, hdbl⟩ | ⟨-, -, -, hdouble, -⟩
    · exact hdbl
    · exact Bool.eq_false_iff.2 fun hd => hzero (hdouble.1 hd).1
  rcases ho.location with ⟨h0, h1, hcor, hpun⟩ | ⟨hmatch, -⟩
  · have hout (j : Nat) (hj : j < (codeView s).wireLen) : winNat t .out j = c j :=
      h.eq_of_isCodeword (ho.isCodeword h hdet) hc
        (fun j hj => (ho.out_of_not_corrected hcor hj).trans (hfill j hj)) hj
    exact ⟨⟨hsyn, h0, h1⟩, ⟨hcor, hdet, hdbl, hpun⟩, hout, fun i hi =>
      (ho.info i hi).trans (hout i (hi.trans_le h.infoLen_le_wireLen))⟩
  · exact absurd hmatch (hnone _ _)

/-- The parity symbol of an Extended word needs a fix exactly when the overall sum is not 0. -/
theorem HdecOutcome.parityFixed_eq_false {s t : State} {fill c : Nat → Nat} (h : CodeOk s) (ho : HdecOutcome s t fill)
    (hc : IsCodeword s c) (hfill : ∀ j < coveredLen s, fill j = c j)
    (hlast : s.cvarB = 2 → winNat s .inp s.cnB.toNat = c s.cnB.toNat) : t.dstat.parityFixed = false := by
  rcases ho.variant_cases with ⟨-, -, -, hfix, -⟩ | ⟨⟨hvar, -⟩, hfixed, -⟩
  · exact hfix
  · refine Bool.eq_false_iff.2 fun hf => (hfixed.1 hf).2 ?_
    rw [hlast hvar, sumBelow_congr fun j hj => hfill j (hj.trans_eq (h.coveredLen_extended hvar).symm), ← sumBelow_succ]
    exact hc.2.2 hvar

/-! ### A single error -/

/-- The word received is the code word c with a added at the wire position j. -/
structure SingleError (s : State) (c : Nat → Nat) (j a : Nat) : Prop where
  unlisted : s.neras = 0
  codeword : IsCodeword s c
  position : j < (codeView s).wireLen
  magnitude : 1 ≤ a ∧ a < s.fqB.toNat
  received : ∀ i < (codeView s).wireLen, winNat s .inp i = if i = j then (c i + a) % s.fqB.toNat else c i

section Single

variable {s t : State} {fill c : Nat → Nat} {j a : Nat} (h : CodeOk s) (he : SingleError s c j a)

include h he

theorem SingleError.nothingErased : NothingErased s := by
  refine ⟨he.unlisted, fun i hi => ?_⟩
  rw [he.received i hi]
  split
  · exact Nat.mod_lt _ h.field.prime.pos
  · exact he.codeword.1 i hi

omit h in
/-- The error as a summand. -/
theorem SingleError.cast_received {i : Nat} (hi : i < (codeView s).wireLen) :
    (winNat s .inp i : ZMod s.fqB.toNat) = c i + if i = j then (a : ZMod s.fqB.toNat) else 0 := by
  rw [he.received i hi]
  split
  · rw [ZMod.natCast_mod, Nat.cast_add]
  · rw [add_zero]

omit h in
/-- The error makes the overall sum of an Extended word nonzero. -/
theorem SingleError.sum_received (hvar : s.cvarB = 2) : sumBelow (s.cnB.toNat + 1) (winNat s .inp) % s.fqB.toNat ≠ 0 := by
  have hwire := wireLen_extended hvar
  have hj : j < s.cnB.toNat + 1 := he.position.trans_eq hwire
  rw [Ne, mod_eq_zero_iff_cast, sumBelow_cast_add fun i hi => he.cast_received (hi.trans_eq hwire.symm),
    mod_eq_zero_iff_cast.1 (he.codeword.2.2 hvar), zero_add]
  simp only [Finset.sum_ite_eq', Finset.mem_range, hj, if_true]
  exact fun hzero => absurd (Nat.le_of_dvd he.magnitude.1 ((ZMod.natCast_eq_zero_iff _ _).1 hzero)) (Nat.not_le.2 he.magnitude.2)

/-- The syndrome is the magnitude times the column of the position. -/
theorem SingleError.syndromeMatches (hj : j < coveredLen s) :
    SyndromeMatches s (fun i => rowTimes s i (winNat s .inp)) (s.csB.toNat + j) a := by
  refine ⟨Nat.add_lt_of_lt_sub' hj, he.magnitude.1, he.magnitude.2, fun i hi => ?_⟩
  have hc0 : rowTimes s i c = 0 := he.codeword.2.1 i hi
  have hrow := rowTimes_add_single hj (fun i hi => he.cast_received (hi.trans_le h.coveredLen_le_wireLen)) i
  rw [hc0, Nat.cast_zero, zero_add, ← Nat.cast_mul, mul_comm] at hrow
  exact (Nat.mod_eq_of_lt (Nat.mod_lt _ h.field.prime.pos)).symm.trans ((ZMod.natCast_eq_natCast_iff' _ _ _).1 hrow)

/-- A code word with an error in a symbol that H covers is corrected there. -/
theorem SingleError.corrected (ho : HdecOutcome s t fill) (hj : j < coveredLen s) :
    t.dstat = { DStat.clear with corrected := true } ∧ t.result0 = toWord (s.csB.toNat + j) ∧ t.result1 = toWord a ∧
      ∀ i < coveredLen s, winNat t .out i = c i := by
  obtain ⟨hfill, hflags⟩ := ho.of_nothingErased h (he.nothingErased h)
  have hmatch : SyndromeMatches s (winNat t .syn) (s.csB.toNat + j) a := by
    obtain ⟨hlt, ha, haq, hcol⟩ := he.syndromeMatches h hj
    exact ⟨hlt, ha, haq, fun i hi => (ho.syndrome i hi).trans ((rowTimes_congr hfill i).trans (hcol i hi))⟩
  have hne := hmatch.ne_zero h
  have hcor : t.dstat.corrected = true := by
    rcases ho.variant_cases with ⟨hcorrected, -⟩ | ⟨⟨hvar, -⟩, -, hcorrected, -⟩
    · exact hcorrected.2 ⟨hne, _, a, hmatch, Nat.le_add_right _ _⟩
    · refine hcorrected.2 ⟨hne, ?_, _, a, hmatch⟩
      rw [sumBelow_congr fun i hi => hfill i (hi.trans_eq (h.coveredLen_extended hvar).symm), ← sumBelow_succ]
      exact he.sum_received hvar
  have hdet : t.dstat.detectOnly = false :=
    Bool.eq_false_iff.2 fun hd => Bool.eq_false_iff.1 (ho.detectOnly_iff.1 hd).2 hcor
  have hpun : t.dstat.punctured = false :=
    Bool.eq_false_iff.2 fun hp => Bool.eq_false_iff.1 (ho.location_of_punctured hp).1 hcor
  obtain ⟨hfix, hdbl⟩ : t.dstat.parityFixed = false ∧ t.dstat.doubleDetect = false := by
    rcases ho.variant_cases with ⟨-, -, -, hfix, hdbl⟩ | ⟨-, hfixed, hcorrected, hdouble, -⟩
    · exact ⟨hfix, hdbl⟩
    · obtain ⟨i, hi, hsyn⟩ := hne
      exact ⟨Bool.eq_false_iff.2 fun hm => hsyn ((hfixed.1 hm).1 i hi),
        Bool.eq_false_iff.2 fun hm => (hcorrected.1 hcor).2.1 (hdouble.1 hm).2⟩
  obtain ⟨h0, h1⟩ := (ho.location_of_corrected hcor).1.unique h hmatch
  obtain ⟨hj', ha'⟩ := h.toNat_location hmatch
  refine ⟨?_, BitVec.eq_of_toNat_eq (h0.trans hj'.symm), BitVec.eq_of_toNat_eq (h1.trans ha'.symm), fun i hi => ?_⟩
  · rw [hflags, hcor, hdet, hpun, hfix, hdbl]
    rfl
  · have hwire := hi.trans_le h.coveredLen_le_wireLen
    rw [ho.out i hi, hfill i hi, he.received i hwire, h0, h1]
    by_cases hij : i = j
    · rw [if_pos ⟨hcor, by rw [hij]⟩, if_pos hij, Nat.mod_add_mod, Nat.add_assoc, Nat.add_sub_cancel' he.magnitude.2.le,
        Nat.add_mod_right, Nat.mod_eq_of_lt (he.codeword.1 i hwire)]
    · rw [if_neg fun hm => hij (Nat.add_left_cancel hm.2).symm, if_neg hij]

/-- An error in the parity symbol of an Extended code word is fixed. -/
theorem SingleError.parityFixed (ho : HdecOutcome s t fill) (hj : coveredLen s ≤ j) :
    t.dstat = { DStat.clear with parityFixed := true } ∧ t.result0 = 0xFFFFFFFF ∧ t.result1 = 0 ∧
      ∀ i < coveredLen s, winNat t .out i = c i := by
  obtain ⟨hfill, hflags⟩ := ho.of_nothingErased h (he.nothingErased h)
  obtain ⟨hvar, -⟩ := h.extended_of_coveredLen_le he.position hj
  have hcode (i : Nat) (hi : i < coveredLen s) : fill i = c i := by
    rw [hfill i hi, he.received i (hi.trans_le h.coveredLen_le_wireLen), if_neg (hi.trans_le hj).ne]
  obtain ⟨⟨hsyn, h0, h1⟩, ⟨hcor, hdet, hdbl, hpun⟩, hout, -⟩ := ho.of_codeword h he.codeword hcode
  have hfix : t.dstat.parityFixed = true := by
    obtain ⟨-, -, -, hpe, -⟩ := hflags.eqs
    obtain ⟨hfixed, -⟩ := ho.extended hvar hpe
    refine hfixed.2 ⟨hsyn, ?_⟩
    rw [sumBelow_congr fun i hi => hfill i (hi.trans_eq (h.coveredLen_extended hvar).symm), ← sumBelow_succ]
    exact he.sum_received hvar
  refine ⟨?_, h0, h1, fun i hi => hout i (hi.trans_le h.coveredLen_le_wireLen)⟩
  rw [hflags, hcor, hdet, hpun, hfix, hdbl]
  rfl

end Single

/-- Settles O43: the error is in a symbol that H covers, or in the parity symbol. -/
theorem hdecSingleError : Obligations.HdecSingleError := by
  unfold Obligations.HdecSingleError
  intro s c j a hinv h hneras hc hj ha haq hinp
  have he : SingleError s c j a := ⟨hneras, hc, hj, ⟨ha, haq⟩, hinp⟩
  have ho := h.hdecOutcome hinv
  obtain ⟨hdet, hcovered⟩ : (hdecState s).dstat.detectOnly = false ∧
      ∀ i < coveredLen s, winNat (hdecState s) .out i = c i := by
    rcases Nat.lt_or_ge j (coveredLen s) with hlt | hge
    · obtain ⟨hflags, -, -, hout⟩ := he.corrected h ho hlt
      exact ⟨congrArg DStat.detectOnly hflags, hout⟩
    · obtain ⟨hflags, -, -, hout⟩ := he.parityFixed h ho hge
      exact ⟨congrArg DStat.detectOnly hflags, hout⟩
  have hout (i : Nat) (hi : i < (codeView s).wireLen) : winNat (hdecState s) .out i = c i :=
    h.eq_of_isCodeword (ho.isCodeword h hdet) hc hcovered hi
  refine ⟨hdecState s, exec_hdec_ok h (erasuresOk_of_neras hneras), ho.noError, hout, fun i hi =>
    (ho.info i hi).trans (hout i (hi.trans_le h.infoLen_le_wireLen)), fun hlt => ?_, fun hge => ?_⟩
  · obtain ⟨hflags, h0, h1, -⟩ := he.corrected h ho hlt
    exact ⟨hflags, h0, h1⟩
  · obtain ⟨hflags, h0, h1, -⟩ := he.parityFixed h ho hge
    exact ⟨hflags, h0, h1⟩

/-! ### One or two erasures -/

/-- A word with one symbol has a multiple of one column for its syndrome. -/
theorem rowTimes_of_single {s : State} {x : Nat → Nat} {k : Nat} (hk : k < coveredLen s)
    (hx : ∀ j < coveredLen s, j ≠ k → x j = 0) (i : Nat) :
    (rowTimes s i x : ZMod s.fqB.toNat) = wireH s i k * x k := by
  rw [rowTimes_cast]
  refine Finset.sum_eq_single k (fun j hj hjk => ?_) fun hnot => absurd (Finset.mem_range.2 hk) hnot
  rw [hx j (Finset.mem_range.1 hj) hjk, Nat.cast_zero, mul_zero]

/-- A word with two symbols has the sum of multiples of two columns for its syndrome. -/
theorem rowTimes_of_pair {s : State} {x : Nat → Nat} {a b : Nat} (hab : a ≠ b) (ha : a < coveredLen s)
    (hb : b < coveredLen s) (hx : ∀ j < coveredLen s, j ≠ a → j ≠ b → x j = 0) (i : Nat) :
    (rowTimes s i x : ZMod s.fqB.toNat) = wireH s i a * x a + wireH s i b * x b := by
  have hsub : ({a, b} : Finset Nat) ⊆ Finset.range (coveredLen s) := by
    simp [Finset.insert_subset_iff, ha, hb]
  rw [rowTimes_cast, ← Finset.sum_subset hsub fun j hj hnot => ?_, Finset.sum_pair hab]
  rw [Finset.mem_insert, Finset.mem_singleton, not_or] at hnot
  rw [hx j (Finset.mem_range.1 hj) hnot.1 hnot.2, Nat.cast_zero, mul_zero]

section Independent

variable {s : State} (h : CodeOk s) {x : Nat → Nat} (hdigit : ∀ j, x j < s.fqB.toNat)
  (hrows : ∀ i < s.fmB.toNat, rowTimes s i x = 0)

include h hdigit hrows

/-- No multiple of one column of H is 0 but by 0. -/
theorem CodeOk.eq_zero_of_single {k : Nat} (hk : k < coveredLen s) (hx : ∀ j < coveredLen s, j ≠ k → x j = 0) :
    x k = 0 := by
  by_contra hne
  obtain ⟨i, hi, hcol⟩ := h.exists_multiple_ne_zero (Nat.add_lt_of_lt_sub' hk) (Nat.pos_of_ne_zero hne) (hdigit k)
  have hrow := rowTimes_of_single hk hx i
  rw [hrows i hi, Nat.cast_zero, mul_comm, ← Nat.cast_mul] at hrow
  exact hcol (mod_eq_zero_iff_cast.2 hrow.symm)

/-- Two columns of H have no relation in which both take part. -/
theorem CodeOk.eq_zero_of_pair {a b : Nat} (hab : a ≠ b) (ha : a < coveredLen s) (hb : b < coveredLen s)
    (hx : ∀ j < coveredLen s, j ≠ a → j ≠ b → x j = 0) : x a = 0 ∨ x b = 0 := by
  by_contra! hne
  obtain ⟨hxa, hxb⟩ := hne
  refine hab (Nat.add_left_cancel (h.column_eq_of_multiples (Nat.add_lt_of_lt_sub' ha) (Nat.add_lt_of_lt_sub' hb)
    (Nat.pos_of_ne_zero hxa) (hdigit a) (Nat.sub_pos_of_lt (hdigit b))
    (Nat.sub_lt h.field.prime.pos (Nat.pos_of_ne_zero hxb)) fun i hi => (ZMod.natCast_eq_natCast_iff' _ _ _).1 ?_))
  have hrow := rowTimes_of_pair hab ha hb hx i
  rw [hrows i hi, Nat.cast_zero, wireH, wireH] at hrow
  rw [Nat.cast_mul, Nat.cast_mul, Nat.cast_sub (hdigit b).le, ZMod.natCast_self]
  linear_combination -hrow

end Independent

/-- Two columns of H, or one, are independent (R245 (c)). -/
theorem CodeOk.erasedIndependent_of_two {s : State} (h : CodeOk s) {a b : Nat} (ha : a < coveredLen s)
    (hb : b < coveredLen s) (hmem : ∀ j < coveredLen s, IsErased s j → j = a ∨ j = b) : ErasedIndependent s := by
  intro x hdigit hx hrows
  have hoff (j : Nat) (hj : j < coveredLen s) (hja : j ≠ a) (hjb : j ≠ b) : x j = 0 :=
    hx j hj fun her => (hmem j hj her).elim hja hjb
  have hother {k l : Nat} (hl : x l = 0) (hkl : ∀ j < coveredLen s, j ≠ k → j ≠ l → x j = 0) (hk : k < coveredLen s) :
      x k = 0 := h.eq_zero_of_single hdigit hrows hk fun j hj hjk => by
    by_cases hjl : j = l
    · rw [hjl, hl]
    · exact hkl j hj hjk hjl
  obtain ⟨hxa, hxb⟩ : x a = 0 ∧ x b = 0 := by
    by_cases hab : a = b
    · have hxa := h.eq_zero_of_single hdigit hrows ha fun j hj hja => hoff j hj hja (hab ▸ hja)
      exact ⟨hxa, hab ▸ hxa⟩
    · rcases h.eq_zero_of_pair hdigit hrows hab ha hb hoff with hxa | hxb
      · exact ⟨hxa, hother hxa (fun j hj hjb hja => hoff j hj hja hjb) hb⟩
      · exact ⟨hother hxb hoff ha, hxb⟩
  intro j hj
  by_cases hja : j = a
  · rw [hja, hxa]
  by_cases hjb : j = b
  · rw [hjb, hxb]
  exact hoff j hj hja hjb

/-- Settles O44: the erased columns are independent, so the code word is the one filling of syndrome 0. -/
theorem hdecFillsErasures : Obligations.HdecFillsErasures := by
  unfold Obligations.HdecFillsErasures
  intro s c a b hinv h heras hc ha hb hmem hinp
  have ho := h.hdecOutcome hinv
  have hwire {j : Nat} (hj : j < coveredLen s) := hj.trans_le h.coveredLen_le_wireLen
  have hex : ∃ j < coveredLen s, IsErased s j := ⟨a, ha, (hmem a (hwire ha)).2 (.inl rfl)⟩
  have hind := h.erasedIndependent_of_two ha hb fun j hj her => (hmem j (hwire hj)).1 her
  have hknown (j : Nat) (hj : j < (codeView s).wireLen) (her : ¬ IsErased s j) : winNat s .inp j = c j := by
    obtain ⟨hja, hjb⟩ := not_or.1 (mt (hmem j hj).2 her)
    exact hinp j hj hja hjb
  have hok : (hdecState s).dstat.erasOk = true := ho.erasOk_iff.2 ⟨hex, hind⟩
  have hfill (j : Nat) (hj : j < coveredLen s) : filledSymbol s j = c j := by
    have hcast := (ho.fill_solved hok).cast_eq ho.fill_received (fun j hj her => (hknown j (hwire hj) her).symm) hc.2.1 hj
    exact ((ZMod.natCast_eq_natCast_iff _ _ _).1 hcast).eq_of_lt_of_lt (ho.fill_lt j hj) (hc.1 j (hwire hj))
  have hparity (hvar : s.cvarB = 2) : ¬ IsErased s s.cnB.toNat := fun her => by
    have hcov := h.coveredLen_extended hvar
    rcases (hmem _ (parityPosition_lt hvar)).1 her with heq | heq
    · omega
    · omega
  obtain ⟨-, ⟨hcor, hdet, hdbl, hpun⟩, hout, hinfo⟩ := ho.of_codeword h hc hfill
  have hfix := ho.parityFixed_eq_false h hc hfill fun hvar =>
    hknown _ (parityPosition_lt hvar) (hparity hvar)
  obtain ⟨hbsz, hlm, hbun⟩ := ho.bchFlags
  have hflags : SameErasureFlags { DStat.clear with erased := true, erasOk := true } (hdecState s).dstat :=
    sameErasureFlags_of_eqs (ho.erased_iff.2 hex) hok (Bool.eq_false_iff.2 fun hfail => (ho.erasFail_iff.1 hfail).2 hind)
      (Bool.eq_false_iff.2 fun hpe => (ho.parityErased_iff.1 hpe).elim fun hvar her => hparity hvar her) hbsz hlm hbun
  refine ⟨hdecState s, exec_hdec_ok h heras, ho.noError, hout, hinfo, ?_⟩
  rw [hflags, hcor, hdet, hfix, hdbl, hpun]
  rfl

/-! ### HDEC after ENC -/

/-- The built field and code of a state, from the views the commands have of them. -/
theorem sameBuilt_of_views {t u : State} (hfvalid : u.status.fvalid = t.status.fvalid)
    (hcvalid : u.status.cvalid = t.status.cvalid) (hfield : fieldView u = fieldView t) (hcode : codeView u = codeView t)
    (helem : u.elem = t.elem) (hv2i : u.v2i = t.v2i) (hhmat : u.hmat = t.hmat) : SameBuilt t u := by
  have hF {α : Type} (f : FieldView → α) : f (fieldView u) = f (fieldView t) := congrArg f hfield
  have hC {α : Type} (f : CodeView → α) : f (codeView u) = f (codeView t) := congrArg f hcode
  exact ⟨⟨hfvalid, BitVec.eq_of_toNat_eq (hF (·.size)), BitVec.eq_of_toNat_eq (hF (·.q)), BitVec.eq_of_toNat_eq (hF (·.m)),
    helem, hv2i⟩, hcvalid, BitVec.eq_of_toNat_eq (hC (·.n)), BitVec.eq_of_toNat_eq (hC (·.k)),
    BitVec.eq_of_toNat_eq (hC (·.var)), BitVec.eq_of_toNat_eq (hC (·.s)), hhmat⟩

theorem SameBuilt.trans {s t u : State} (h : SameBuilt s t) (h' : SameBuilt t u) : SameBuilt s u := by
  obtain ⟨⟨h1, h2, h3, h4, h5, h6⟩, h7, h8, h9, h10, h11, h12⟩ := h
  obtain ⟨⟨k1, k2, k3, k4, k5, k6⟩, k7, k8, k9, k10, k11, k12⟩ := h'
  exact ⟨⟨k1.trans h1, k2.trans h2, k3.trans h3, k4.trans h4, k5.trans h5, k6.trans h6⟩, k7.trans h7, k8.trans h8,
    k9.trans h9, k10.trans h10, k11.trans h11, k12.trans h12⟩

theorem SameBuilt.codeView_eq {s u : State} (h : SameBuilt s u) : codeView u = codeView s := by
  obtain ⟨⟨-, -, hq, -, -, -⟩, -, hn, hk, hvar, hs, hH⟩ := h
  simp only [codeView, hq, hn, hk, hvar, hs, hH]

/-- A code word of a built code is one in every state with the same built field and code. -/
theorem IsCodeword.of_same {s u : State} {word : Nat → Nat} (hsame : SameBuilt s u) (hc : IsCodeword s word) :
    IsCodeword u word := by
  have hview := hsame.codeView_eq
  obtain ⟨⟨-, -, hq, hm, -, -⟩, -, hn, -, hvar, hs, -⟩ := hsame
  simpa only [IsCodeword, coveredLen, wireH, hview, hq, hm, hn, hvar, hs] using hc

/-- Settles O45: the word in IN is a code word, which HDEC leaves as it is. -/
theorem encThenHdec : Obligations.EncThenHdec := by
  unfold Obligations.EncThenHdec
  intro s t u hinv h hinfo henc hinvu hneras hparams hfvalid hcvalid hfield hcode helem hv2i hhmat hinp
  obtain ⟨t', henc', -, -, hword, hsys⟩ := encRule s hinv h hinfo
  obtain rfl : t = t' := Host.Outcome.next.inj (henc.symm.trans henc')
  have hst : SameBuilt s t := exec_sameBuilt (by decide) (by decide) henc
  have hsame : SameBuilt s u := hst.trans (sameBuilt_of_views hfvalid hcvalid hfield hcode helem hv2i hhmat)
  obtain ⟨⟨htparams, -⟩, -⟩ := exec_untouched hinv.memory henc
  have hu : CodeOk u := h.of_same hsame (hparams.trans htparams)
  have hview := hsame.codeView_eq
  have ⟨⟨_, _, _, hm, _⟩, _⟩ := hsame
  have hcw : IsCodeword u (winNat t .out) := hword.of_same hsame
  have hinp' (j : Nat) (hj : j < (codeView u).wireLen) : winNat u .inp j = winNat t .out j := hinp j (hview ▸ hj)
  have hn : NothingErased u := ⟨hneras, fun j hj => hinp' j hj ▸ hcw.1 j hj⟩
  have ho := hu.hdecOutcome hinvu
  obtain ⟨hreceived, hflags⟩ := ho.of_nothingErased hu hn
  have hfill (j : Nat) (hj : j < coveredLen u) : filledSymbol u j = winNat t .out j :=
    (hreceived j hj).trans (hinp' j (hj.trans_le hu.coveredLen_le_wireLen))
  obtain ⟨⟨hsyn, h0, h1⟩, ⟨hcor, hdet, hdbl, hpun⟩, hout, hinfo'⟩ := ho.of_codeword hu hcw hfill
  have hfix := ho.parityFixed_eq_false hu hcw hfill fun hvar =>
    hinp' _ (parityPosition_lt hvar)
  rw [hview] at hout hinfo'
  refine ⟨hdecState u, exec_hdec_ok hu (erasuresOk_of_neras hneras), ho.noError, hout,
    fun i hi => (hinfo' i hi).trans (hsys i hi), fun i hi => hsyn i (hm ▸ hi), ?_, h0, h1⟩
  rw [hflags, hcor, hdet, hfix, hdbl, hpun]
  rfl

end Sys2Proof.Machine
end

section
/-! SUPPORT. The recurrence of spec/44_bch.md R285 over polynomials: what each pass keeps of the locator and the
auxiliary polynomial, and that no shorter recurrence generates the sequence (R286). -/

namespace Sys2Proof.Machine

open scoped Polynomial

section Recurrence

variable {K : Type} [Field K]

/-- The sequence with the polynomial S satisfies, at the positions from L to r - 1, the recurrence whose coefficients
are those of C: the product C S vanishes there. -/
def GeneratesTo (S C : K[X]) (L r : Nat) : Prop := ∀ j, L ≤ j → j < r → (C * S).coeff j = 0

theorem GeneratesTo.succ {S C : K[X]} {l r : Nat} (hC : GeneratesTo S C l r) (hr : l ≤ r → (C * S).coeff r = 0) :
    GeneratesTo S C l (r + 1) := fun j hj hjr => by
  rcases Nat.lt_succ_iff_lt_or_eq.1 hjr with hlt | rfl
  · exact hC j hj hlt
  · exact hr hj

theorem GeneratesTo.of_succ {S C : K[X]} {l r : Nat} (hC : GeneratesTo S C l (r + 1)) : GeneratesTo S C l r :=
  fun j hj hjr => hC j hj (by omega)

/-- Below a coefficient whose n predecessors are 0 in T, a factor P of degree at most n has no weight but its constant
term's. -/
theorem coeff_mul_of_vanish {P T : K[X]} {n r : Nat} (hP : P.natDegree ≤ n)
    (hT : ∀ j, r ≤ j + n → j < r → T.coeff j = 0) : (P * T).coeff r = P.coeff 0 * T.coeff r := by
  rw [Polynomial.coeff_mul, Finset.Nat.sum_antidiagonal_eq_sum_range_succ fun i j => P.coeff i * T.coeff j,
    Finset.sum_range_succ', Nat.sub_zero, Finset.sum_eq_zero, zero_add]
  intro i hi
  have hir := Finset.mem_range.1 hi
  rcases Nat.lt_or_ge n (i + 1) with hn | hn
  · rw [Polynomial.coeff_eq_zero_of_natDegree_lt (hP.trans_lt hn), zero_mul]
  · rw [hT _ (by omega) (by omega), mul_zero]

/-- A factor of degree at most L takes part in a coefficient with L + 1 terms at most. -/
theorem coeff_mul_of_natDegree_le {P T : K[X]} {L r : Nat} (hP : P.natDegree ≤ L) (hL : L ≤ r) :
    (P * T).coeff r = ∑ i ∈ Finset.range (L + 1), P.coeff i * T.coeff (r - i) := by
  rw [Polynomial.coeff_mul, Finset.Nat.sum_antidiagonal_eq_sum_range_succ fun i j => P.coeff i * T.coeff j]
  refine (Finset.sum_subset (Finset.range_mono (by omega)) fun i _ hi => ?_).symm
  rw [Finset.mem_range, Nat.not_lt] at hi
  rw [Polynomial.coeff_eq_zero_of_natDegree_lt (by omega), zero_mul]

/-- Two recurrences whose lengths add up to at most r cannot differ at r for the first time: both read off the
coefficient r of C Λ S (R286 'minimal-degree'). -/
theorem coeff_eq_zero_of_generatesTo {S Λ C : K[X]} {l L r : Nat} (hΛ : Λ.natDegree ≤ l) (hΛ0 : Λ.coeff 0 = 1)
    (hΛS : GeneratesTo S Λ l r) (hC : C.natDegree ≤ L) (hC0 : C.coeff 0 = 1) (hCS : GeneratesTo S C L (r + 1))
    (hshort : l + L ≤ r) : (Λ * S).coeff r = 0 := calc
  (Λ * S).coeff r = (C * (Λ * S)).coeff r := by
    rw [coeff_mul_of_vanish hC fun j hj hjr => hΛS j (by omega) hjr, hC0, one_mul]
  _ = (Λ * (C * S)).coeff r := by rw [mul_left_comm]
  _ = (C * S).coeff r := by
    rw [coeff_mul_of_vanish hΛ fun j hj hjr => hCS j (by omega) (by omega), hΛ0, one_mul]
  _ = 0 := hCS r (by omega) (by omega)

/-- With the counter one further, the multiple of the auxiliary polynomial moves up by one. -/
theorem coeff_X_pow_succ_mul (mc j : Nat) (B S : K[X]) :
    (Polynomial.X ^ (mc + 1) * B * S).coeff (j + 1) = (Polynomial.X ^ mc * B * S).coeff j := by
  rw [pow_succ', mul_assoc, mul_assoc, Polynomial.coeff_X_mul, mul_assoc]

/-- What holds of the variables of R285 before pass r over the sequence S: the locator Λ has constant term 1 and degree
at most L, and generates the sequence up to r from L on, with L least; the multiple x^mc B of the auxiliary polynomial
fits beside it, and once a discrepancy was found, its product with S has the coefficient b at r, after zeros. -/
structure Massey (S : K[X]) (r : Nat) (Λ B : K[X]) (L mc : Nat) (b : K) : Prop where
  const : Λ.coeff 0 = 1
  degree : Λ.natDegree ≤ L
  len_le : L ≤ r
  generates : GeneratesTo S Λ L r
  minimal : ∀ (C : K[X]) (l : Nat), C.coeff 0 = 1 → C.natDegree ≤ l → GeneratesTo S C l r → L ≤ l
  mc_pos : 1 ≤ mc
  degree_aux : mc + B.natDegree + L ≤ r + 1
  aux_zero : 0 < L → ∀ j, r + 1 ≤ j + L → j < r → (Polynomial.X ^ mc * B * S).coeff j = 0
  aux_last : 0 < L → (Polynomial.X ^ mc * B * S).coeff r = b

theorem massey_start (S : K[X]) : Massey S 0 1 1 0 1 1 where
  const := Polynomial.coeff_one_zero
  degree := Polynomial.natDegree_one.le
  len_le := le_rfl
  generates := fun _ _ => nofun
  minimal := fun _ _ _ _ _ => Nat.zero_le _
  mc_pos := le_rfl
  degree_aux := by rw [Polynomial.natDegree_one]
  aux_zero := nofun
  aux_last := nofun

section Pass

variable {S Λ B : K[X]} {r L mc : Nat} {b : K} (h : Massey S r Λ B L mc b)

include h

/-- A pass that keeps the length and the auxiliary polynomial advances the counter. -/
theorem Massey.advance {Λ' : K[X]} (hconst : Λ'.coeff 0 = 1) (hdeg : Λ'.natDegree ≤ L)
    (hgen : GeneratesTo S Λ' L (r + 1)) : Massey S (r + 1) Λ' B L (mc + 1) b where
  const := hconst
  degree := hdeg
  len_le := h.len_le.trans (Nat.le_succ r)
  generates := hgen
  minimal := fun C l h0 hC hCS => h.minimal C l h0 hC hCS.of_succ
  mc_pos := Nat.succ_pos mc
  degree_aux := by
    have hB := h.degree_aux
    omega
  aux_zero := fun hL j hj hjr => by
    have hlen := h.len_le
    obtain ⟨i, rfl⟩ := Nat.exists_eq_add_of_le' (show 1 ≤ j by omega)
    rw [coeff_X_pow_succ_mul]
    exact h.aux_zero hL i (by omega) (by omega)
  aux_last := fun hL => (coeff_X_pow_succ_mul ..).trans (h.aux_last hL)

/-- A discrepancy 0 only advances the counter. -/
theorem Massey.keep (hdisc : (Λ * S).coeff r = 0) : Massey S (r + 1) Λ B L (mc + 1) b :=
  h.advance h.const h.degree (h.generates.succ fun _ => hdisc)

/-- The next locator of R285: `Λ - (Δ / b) x^mc B`. -/
theorem Massey.const_next (q : K) : (Λ - Polynomial.C q * (Polynomial.X ^ mc * B)).coeff 0 = 1 := by
  have hmc := h.mc_pos
  rw [Polynomial.coeff_sub, Polynomial.coeff_C_mul, Polynomial.coeff_X_pow_mul', if_neg (by omega), mul_zero, sub_zero,
    h.const]

theorem Massey.natDegree_next (q : K) :
    (Λ - Polynomial.C q * (Polynomial.X ^ mc * B)).natDegree ≤ max L (r + 1 - L) := by
  have hΛ := h.degree
  have hB := h.degree_aux
  refine (Polynomial.natDegree_sub_le _ _).trans (max_le_max hΛ ?_)
  refine (Polynomial.natDegree_C_mul_le _ _).trans (Polynomial.natDegree_mul_le.trans ?_)
  rw [Polynomial.natDegree_X_pow]
  omega

/-- The next locator brings the discrepancy at r to 0. -/
theorem Massey.generates_next {q : K} (hq : q * b = (Λ * S).coeff r) :
    GeneratesTo S (Λ - Polynomial.C q * (Polynomial.X ^ mc * B)) (max L (r + 1 - L)) (r + 1) := by
  intro j hj hjr
  have hL : 0 < L := by omega
  rw [sub_mul, mul_assoc, Polynomial.coeff_sub, Polynomial.coeff_C_mul]
  rcases Nat.lt_succ_iff_lt_or_eq.1 hjr with hlt | rfl
  · rw [h.generates j (by omega) hlt, h.aux_zero hL j (by omega) hlt, mul_zero, sub_zero]
  · rw [h.aux_last hL, hq, sub_self]

/-- After a discrepancy other than 0 no recurrence of length below r + 1 - L generates the sequence. -/
theorem Massey.minimal_next (hdisc : (Λ * S).coeff r ≠ 0) {C : K[X]} {l : Nat} (h0 : C.coeff 0 = 1)
    (hdeg : C.natDegree ≤ l) (hC : GeneratesTo S C l (r + 1)) : max L (r + 1 - L) ≤ l := by
  have hold := h.minimal C l h0 hdeg hC.of_succ
  have hnew := mt (coeff_eq_zero_of_generatesTo h.degree h.const h.generates hdeg h0 hC) hdisc
  omega

/-- A discrepancy other than 0 with 2 L > r changes the locator only. -/
theorem Massey.correct {q : K} (hq : q * b = (Λ * S).coeff r) (hlen : r < 2 * L) :
    Massey S (r + 1) (Λ - Polynomial.C q * (Polynomial.X ^ mc * B)) B L (mc + 1) b := by
  have hmax : max L (r + 1 - L) = L := by omega
  exact h.advance (h.const_next q) (hmax ▸ h.natDegree_next q) (hmax ▸ h.generates_next hq)

/-- A discrepancy other than 0 with 2 L <= r makes the locator longer, and renews the auxiliary polynomial. -/
theorem Massey.lengthen {q : K} (hdisc : (Λ * S).coeff r ≠ 0) (hq : q * b = (Λ * S).coeff r) (hlen : 2 * L ≤ r) :
    Massey S (r + 1) (Λ - Polynomial.C q * (Polynomial.X ^ mc * B)) Λ (r + 1 - L) 1 ((Λ * S).coeff r) := by
  have hmax : max L (r + 1 - L) = r + 1 - L := by omega
  have hΛ := h.degree
  exact
    { const := h.const_next q
      degree := hmax ▸ h.natDegree_next q
      len_le := Nat.sub_le _ _
      generates := hmax ▸ h.generates_next hq
      minimal := fun C l h0 hC hCS => hmax ▸ h.minimal_next hdisc h0 hC hCS
      mc_pos := le_rfl
      degree_aux := by omega
      aux_zero := fun _ j hj hjr => by
        obtain ⟨i, rfl⟩ := Nat.exists_eq_add_of_le' (show 1 ≤ j by omega)
        rw [pow_one, mul_assoc, Polynomial.coeff_X_mul]
        exact h.generates i (by omega) (by omega)
      aux_last := fun _ => by rw [pow_one, mul_assoc, Polynomial.coeff_X_mul] }

end Pass
end Recurrence

end Sys2Proof.Machine
end

section
/-! SUPPORT. Berlekamp-Massey on lists of elements as the recurrence over polynomials (spec/44_bch.md R285), the checks
that the BCH commands pass (R280), and sums of elements in characteristic 2. -/

namespace Sys2Proof.Machine

open Sys2Proof
open scoped Polynomial

/-! ### The passes of Berlekamp-Massey -/

theorem bmStep_of_zero {F : FieldView} {S : List Nat} {v : BmVars} {r : Nat} (h : discrepancy F S v r = 0) :
    bmStep F S v r = { v with mc := v.mc + 1 } := if_pos h

theorem bmStep_of_longer {F : FieldView} {S : List Nat} {v : BmVars} {r : Nat} (h : discrepancy F S v r ≠ 0)
    (hlen : 2 * v.len ≤ r) :
    bmStep F S v r =
      { locator := bmUpdate F v (discrepancy F S v r), aux := v.locator, len := r + 1 - v.len, mc := 1
        bd := discrepancy F S v r } := (if_neg h).trans (if_pos hlen)

theorem bmStep_of_sameLength {F : FieldView} {S : List Nat} {v : BmVars} {r : Nat} (h : discrepancy F S v r ≠ 0)
    (hlen : r < 2 * v.len) :
    bmStep F S v r = { v with locator := bmUpdate F v (discrepancy F S v r), mc := v.mc + 1 } :=
  (if_neg h).trans (if_neg (Nat.not_le.2 hlen))

theorem locator_bmStep {F : FieldView} {S : List Nat} {v : BmVars} {r : Nat} (h : discrepancy F S v r ≠ 0) :
    (bmStep F S v r).locator = bmUpdate F v (discrepancy F S v r) := by
  rcases Nat.lt_or_ge r (2 * v.len) with hlen | hlen
  · rw [bmStep_of_sameLength h hlen]
  · rw [bmStep_of_longer h hlen]

/-- The variables of Berlekamp-Massey before pass r. -/
def bmAt (F : FieldView) (S : List Nat) (r : Nat) : BmVars := (List.range r).foldl (bmStep F S) bmStart

theorem bmAt_succ (F : FieldView) (S : List Nat) (r : Nat) : bmAt F S (r + 1) = bmStep F S (bmAt F S r) r := by
  rw [bmAt, List.range_succ, List.foldl_append]
  rfl

theorem at0_shiftPoly (p : List Nat) (k i : Nat) : at0 (shiftPoly p k) i = if i < k then 0 else at0 p (i - k) := by
  split
  · exact at0_padZeros_of_lt p ‹_›
  · obtain ⟨j, rfl⟩ := Nat.exists_eq_add_of_le (Nat.not_lt.1 ‹_›)
    rw [Nat.add_sub_cancel_left]
    exact at0_padZeros_add k p j

/-! ### Sums -/

section Realized

variable {F : FieldView} {K : Type} [Field K] {ι : Nat → K} (hι : Realizes F ι)

include hι

/-- A loop that adds elements to an element is their sum. -/
theorem Realizes.foldl_gadd {f : Nat → Nat} {is : List Nat} {a : Nat} (ha : a < F.size)
    (hf : ∀ i ∈ is, f i < F.size) :
    is.foldl (fun acc i => gadd F acc (f i)) a < F.size ∧
      ι (is.foldl (fun acc i => gadd F acc (f i)) a) = ι a + (is.map fun i => ι (f i)).sum := by
  induction is generalizing a with
  | nil => exact ⟨ha, (add_zero _).symm⟩
  | cons i is ih =>
    obtain ⟨hlt, hsum⟩ := ih (hι.gadd_lt a (f i)) fun j hj => hf j (List.mem_cons_of_mem _ hj)
    refine ⟨hlt, hsum.trans ?_⟩
    rw [hι.add a ha _ (hf i List.mem_cons_self), List.map_cons, List.sum_cons, add_assoc]

theorem Realizes.foldl_gadd_range {f : Nat → Nat} {n a : Nat} (ha : a < F.size) (hf : ∀ i, f i < F.size) :
    (List.range n).foldl (fun acc i => gadd F acc (f i)) a < F.size ∧
      ι ((List.range n).foldl (fun acc i => gadd F acc (f i)) a) = ι a + ∑ i ∈ Finset.range n, ι (f i) :=
  hι.foldl_gadd ha fun i _ => hf i

/-! ### Berlekamp-Massey over a field -/

theorem Realizes.coeffs_shiftPoly {p : List Nat} (hp : Coeffs F p) (k : Nat) : Coeffs F (shiftPoly p k) := fun c hc =>
  (List.mem_append.1 hc).elim (hι.coeffs_zeros k c) (hp c)

theorem Realizes.polyOf_shiftPoly (p : List Nat) (k : Nat) :
    polyOf ι (shiftPoly p k) = Polynomial.X ^ k * polyOf ι p := by
  refine Polynomial.ext fun i => ?_
  rw [hι.coeff_polyOf, at0_shiftPoly, Polynomial.coeff_X_pow_mul', apply_ite ι, hι.zero, hι.coeff_polyOf, ← ite_not]
  exact if_congr Nat.not_lt rfl rfl

/-- The locator, the auxiliary polynomial and the last discrepancy are made of elements. -/
structure BmElements (F : FieldView) (v : BmVars) : Prop where
  locator : Reduced F v.locator
  aux : Reduced F v.aux
  bd : v.bd < F.size ∧ v.bd ≠ 0

theorem Realizes.polyOf_bmUpdate {v : BmVars} (hv : BmElements F v) (delta : Nat) :
    polyOf ι (bmUpdate F v delta) =
      polyOf ι v.locator - Polynomial.C (ι (gdiv F delta v.bd)) * (Polynomial.X ^ v.mc * polyOf ι v.aux) := by
  have hscaled := (hι.reduced_pscale v.aux (gdiv F delta v.bd)).1
  rw [bmUpdate, hι.polyOf_psub hv.locator.1 (hι.coeffs_shiftPoly hscaled v.mc), hι.polyOf_shiftPoly,
    hι.polyOf_pscale hv.aux.1 (hι.gdiv_lt _ _), mul_left_comm]

theorem Realizes.reduced_bmUpdate (v : BmVars) (delta : Nat) : Reduced F (bmUpdate F v delta) := hι.reduced_psub _ _

/-- The discrepancy of R285 is the coefficient of Λ S at r. -/
theorem Realizes.discrepancy_spec {S : List Nat} {v : BmVars} {r : Nat} (hS : Coeffs F S) (hv : BmElements F v)
    (hconst : (polyOf ι v.locator).coeff 0 = 1) (hdeg : (polyOf ι v.locator).natDegree ≤ v.len) (hlen : v.len ≤ r) :
    discrepancy F S v r < F.size ∧ ι (discrepancy F S v r) = (polyOf ι v.locator * polyOf ι S).coeff r := by
  obtain ⟨hlt, hsum⟩ := hι.foldl_gadd_range (n := v.len) (hι.at0_lt hS r)
    fun k => hι.gmul_lt (at0 v.locator (k + 1)) (at0 S (r - (k + 1)))
  refine ⟨hlt, hsum.trans ?_⟩
  rw [coeff_mul_of_natDegree_le hdeg hlen, Finset.sum_range_succ', hconst, one_mul, Nat.sub_zero, hι.coeff_polyOf,
    add_comm]
  refine congrArg (· + _) (Finset.sum_congr rfl fun k _ => ?_)
  rw [hι.coeff_polyOf, hι.coeff_polyOf, hι.mul _ (hι.at0_lt hv.locator.1 _) _ (hι.at0_lt hS _)]

/-- Before every pass the variables are made of elements, and are those of the recurrence over K[X]. -/
structure BmInv (F : FieldView) (ι : Nat → K) (S : List Nat) (r : Nat) (v : BmVars) : Prop where
  elements : BmElements F v
  massey : Massey (polyOf ι S) r (polyOf ι v.locator) (polyOf ι v.aux) v.len v.mc (ι v.bd)

theorem Realizes.bmInv_start (S : List Nat) : BmInv F ι S 0 bmStart := by
  refine ⟨⟨hι.reduced_one, hι.reduced_one, hι.two_le_size, one_ne_zero⟩, ?_⟩
  have hone : polyOf ι bmStart.locator = 1 := hι.polyOf_one
  rw [show bmStart.aux = bmStart.locator from rfl, hone, show bmStart.bd = 1 from rfl, hι.one]
  exact massey_start _

theorem Realizes.bmInv_step {S : List Nat} (hS : Coeffs F S) {r : Nat} {v : BmVars} (hv : BmInv F ι S r v) :
    BmInv F ι S (r + 1) (bmStep F S v r) := by
  obtain ⟨hel, hm⟩ := hv
  obtain ⟨hlt, hdisc⟩ := hι.discrepancy_spec hS hel hm.const hm.degree hm.len_le
  by_cases h0 : discrepancy F S v r = 0
  · rw [bmStep_of_zero h0]
    rw [h0, hι.zero] at hdisc
    exact ⟨⟨hel.locator, hel.aux, hel.bd⟩, hm.keep hdisc.symm⟩
  have hquo : ι (gdiv F (discrepancy F S v r) v.bd) * ι v.bd = (polyOf ι v.locator * polyOf ι S).coeff r :=
    (hι.div_mul hlt hel.bd.1 hel.bd.2).trans hdisc
  rcases Nat.lt_or_ge r (2 * v.len) with hlen | hlen
  · rw [bmStep_of_sameLength h0 hlen]
    refine ⟨⟨hι.reduced_bmUpdate v _, hel.aux, hel.bd⟩, ?_⟩
    have := hm.correct hquo hlen
    rwa [← hι.polyOf_bmUpdate hel] at this
  · rw [bmStep_of_longer h0 hlen]
    refine ⟨⟨hι.reduced_bmUpdate v _, hel.locator, hlt, h0⟩, ?_⟩
    have := hm.lengthen (hdisc ▸ (hι.eq_zero_iff hlt).not.2 h0) hquo hlen
    rwa [← hι.polyOf_bmUpdate hel, ← hdisc] at this

theorem Realizes.bmInv {S : List Nat} (hS : Coeffs F S) (r : Nat) : BmInv F ι S r (bmAt F S r) := by
  induction r with
  | zero => exact hι.bmInv_start S
  | succ r ih => exact bmAt_succ F S r ▸ hι.bmInv_step hS ih

/-- The locator Berlekamp-Massey ends with is trimmed already. -/
theorem Realizes.berlekampMassey_eq {S : List Nat} (hS : Coeffs F S) (n : Nat) :
    berlekampMassey F S n = ((bmAt F S n).locator, (bmAt F S n).len) :=
  congrArg (·, (bmAt F S n).len) (hι.bmInv hS n).elements.locator.2

/-- The locator has L + 1 coefficients at most (R286). -/
theorem Realizes.length_bmAt_le {S : List Nat} (hS : Coeffs F S) (n : Nat) :
    (bmAt F S n).locator.length ≤ (bmAt F S n).len + 1 := by
  obtain ⟨hel, hm⟩ := hι.bmInv hS n
  rw [hι.length_reduced hel.locator]
  exact Nat.succ_le_succ hm.degree

end Realized

/-! ### The check phase of the BCH commands -/

theorem checkBchLength_ok {s : State} (h : BchLength s) : checkBchLength s = .ok () := by
  obtain ⟨hpos, hsize, hbuf⟩ := h
  rw [checkBchLength, decide_eq_false (Nat.not_lt.2 hpos), decide_eq_false (Nat.not_lt.2 hsize), Bool.or_self,
    failIf_false, ok_bind, capacity_ok hbuf]

theorem checkBchCapacity_ok {s : State} (h : BchCapacity s) : checkBchCapacity s = .ok () := by
  rw [checkBchCapacity, decide_eq_false (Nat.not_lt.2 h.1), failIf_false, ok_bind, capacity_ok h.2]

theorem toNat_toWord {n : Nat} (h : n < 2 ^ 32) : (toWord n).toNat = n := by
  rw [BitVec.toNat_ofNat, Nat.mod_eq_of_lt h]

/-- A window holds 2t + 1 words (R284, R286). -/
theorem BchCapacity.length_le {s : State} (h : BchCapacity s) (hp : s.params.wf = true) :
    2 * s.bt.toNat + 1 ≤ s.params.nbuf := by
  have hcap := h.2
  simp only [Params.wf, Bool.and_eq_true, decide_eq_true_eq] at hp
  omega

/-! ### Sums of elements -/

section Binary

variable {s : State} {K : Type} [Field K] {ι : Nat → K} (hι : Realizes (fieldView s) ι) (h : BinaryField s)

include hι h

/-- An element is a sum of elements digit by digit exactly when it is one in the field. -/
theorem Realizes.isXorSum_iff {v : Nat} (hv : v < s.fsize.toNat) {is : List Nat} {f : Nat → Nat}
    (hf : ∀ i ∈ is, f i < s.fsize.toNat) : IsXorSum s v is f ↔ ι v = (is.map fun i => ι (f i)).sum := by
  refine ⟨fun hsum => ?_, hι.isXorSum h hv hf⟩
  obtain ⟨hlt, heq⟩ := hι.elementSum_spec hf
  have hdigits := (isXorSum_elementSum h f is).2
  rw [h.1.eq_of_coord_eq hv hlt fun d hd => (hsum.2 d hd).trans (hdigits d hd).symm, heq]

theorem Realizes.isXorSum_range_iff {v : Nat} (hv : v < s.fsize.toNat) {n : Nat} {f : Nat → Nat}
    (hf : ∀ i, f i < s.fsize.toNat) : IsXorSum s v (List.range n) f ↔ ι v = ∑ i ∈ Finset.range n, ι (f i) :=
  hι.isXorSum_iff h hv fun i _ => hf i

/-- Subtraction is addition in characteristic 2 (R189). -/
theorem Realizes.sub_eq_add (x y : K) : x - y = x + y := by
  obtain ⟨a, ha, rfl⟩ := hι.surjective x
  obtain ⟨b, hb, rfl⟩ := hι.surjective y
  rw [← hι.sub a ha b hb, h.1.gsub_eq_gadd_of_two h.2, hι.add a ha b hb]

end Binary

end Sys2Proof.Machine
end

section
/-! PROOFS. BM: the locator and L of the recurrence of R285, trimmed and of bounded length (O49), and that they generate
the syndrome sequence with the least L (O50) (spec/44_bch.md R284 to R286). -/

namespace Sys2Proof.Machine

open Sys2Proof
open scoped Polynomial

/-! ### BM -/

/-- The sequence BM reads (R284). -/
def bmSequence (s : State) : List Nat := winNats s .syn (2 * s.bt.toNat)

/-- The variables of BM before pass r. -/
def bmVars (s : State) (r : Nat) : BmVars := bmAt (fieldView s) (bmSequence s) r

theorem bmVars_succ (s : State) (r : Nat) :
    bmVars s (r + 1) = bmStep (fieldView s) (bmSequence s) (bmVars s r) r := bmAt_succ ..

/-- The discrepancy BM finds in pass r. -/
def bmDiscrepancy (s : State) (r : Nat) : Nat := discrepancy (fieldView s) (bmSequence s) (bmVars s r) r

/-- The variables BM ends with. -/
def bmFinal (s : State) : BmVars := bmVars s (2 * s.bt.toNat)

/-- The completion of BM. -/
def bmState (s : State) : State :=
  complete .noError 0 (putResult0 (putLocator s (bmFinal s).locator (bmFinal s).len) (bmFinal s).len)

theorem at0_bmSequence {s : State} {u : Nat} (hu : u < 2 * s.bt.toNat) : at0 (bmSequence s) u = winNat s .syn u :=
  (at0_winNats ..).trans (if_pos hu)

section Run

variable {s : State} (hbin : BinaryField s) (hcap : BchCapacity s)
  (hsyn : ∀ u < 2 * s.bt.toNat, winNat s .syn u < s.fsize.toNat)

include hsyn

theorem coeffs_bmSequence : Coeffs (fieldView s) (bmSequence s) := coeffs_winNats hsyn

include hbin hcap in
theorem exec_bm_ok : exec .bm s = .next (bmState s) := by
  obtain ⟨K, _, ι, hι⟩ := hbin.1.exists_realizes
  refine (conclude_bind_ok (needBinary_ok hbin) _).trans ((conclude_bind_ok (checkBchCapacity_ok hcap) _).trans
    ((conclude_bind_ok (checkWindow_ok hsyn 6) _).trans ?_))
  rw [← bmSequence, hι.berlekampMassey_eq (coeffs_bmSequence hsyn)]
  rfl

variable {K : Type} [Field K] {ι : Nat → K} (hι : Realizes (fieldView s) ι)

include hι

theorem Realizes.bmInv_bmVars (r : Nat) : BmInv (fieldView s) ι (bmSequence s) r (bmVars s r) :=
  hι.bmInv (coeffs_bmSequence hsyn) r

theorem Realizes.bmInv_bmFinal : BmInv (fieldView s) ι (bmSequence s) (2 * s.bt.toNat) (bmFinal s) :=
  hι.bmInv_bmVars hsyn _

theorem Realizes.length_locator_le : (bmFinal s).locator.length ≤ (bmFinal s).len + 1 :=
  hι.length_bmAt_le (coeffs_bmSequence hsyn) _

/-- The constant term of the locator is 1 (R286). -/
theorem Realizes.at0_locator_zero : at0 (bmFinal s).locator 0 = 1 := by
  obtain ⟨hel, hm⟩ := hι.bmInv_bmFinal hsyn
  refine hι.injective _ (hι.at0_lt hel.locator.1 0) 1 hι.two_le_size ?_
  rw [← hι.coeff_polyOf, hm.const, hι.one]

/-- The discrepancy of pass r by the sum of R285. -/
theorem Realizes.isXorSum_discrepancy (hbin : BinaryField s) {r : Nat} (hr : r < 2 * s.bt.toNat) :
    bmDiscrepancy s r < s.fsize.toNat ∧
      IsXorSum s (bmDiscrepancy s r) (List.range ((bmVars s r).len + 1)) fun i =>
        if i = 0 then winNat s .syn r else mulIndex s (at0 (bmVars s r).locator i) (winNat s .syn (r - i)) := by
  obtain ⟨hel, hm⟩ := hι.bmInv_bmVars hsyn r
  obtain ⟨hlt, hdisc⟩ := hι.discrepancy_spec (coeffs_bmSequence hsyn) hel hm.const hm.degree hm.len_le
  refine ⟨hlt, hι.isXorSum_range hbin hlt (fun i => ?_) (hdisc.trans ?_)⟩
  · split
    · exact hsyn r hr
    · exact hι.mulIndex_lt _ _
  rw [coeff_mul_of_natDegree_le hm.degree hm.len_le]
  refine Finset.sum_congr rfl fun i _ => ?_
  rw [hι.coeff_polyOf (bmSequence s), at0_bmSequence (by omega)]
  rcases eq_or_ne i 0 with rfl | hi
  · rw [if_pos rfl, hm.const, one_mul, Nat.sub_zero]
  · rw [if_neg hi, hι.coeff_polyOf, hι.mulIndex_eq_mul (hι.at0_lt hel.locator.1 i) (hsyn _ (by omega))]

omit hsyn in
/-- The coefficients of the updated locator. -/
theorem Realizes.isXorSum_bmUpdate (hbin : BinaryField s) {v : BmVars} (hv : BmElements (fieldView s) v)
    (delta i : Nat) :
    IsXorSum s (at0 (bmUpdate (fieldView s) v delta) i) [0, 1] fun x =>
      if x = 0 then at0 v.locator i
      else if i < v.mc then 0 else mulIndex s (gdiv (fieldView s) delta v.bd) (at0 v.aux (i - v.mc)) := by
  have hterm : ι (if i < v.mc then 0 else mulIndex s (gdiv (fieldView s) delta v.bd) (at0 v.aux (i - v.mc))) =
      ι (gdiv (fieldView s) delta v.bd) * (Polynomial.X ^ v.mc * polyOf ι v.aux).coeff i := by
    rw [Polynomial.coeff_X_pow_mul']
    rcases Nat.lt_or_ge i v.mc with hi | hi
    · rw [if_pos hi, if_neg (Nat.not_le.2 hi), mul_zero, hι.zero]
    · rw [if_pos hi, if_neg (Nat.not_lt.2 hi), hι.mulIndex_eq_mul (hι.gdiv_lt _ _) (hι.at0_lt hv.aux.1 _),
        hι.coeff_polyOf]
  refine hι.isXorSum hbin (hι.at0_lt (hι.reduced_bmUpdate v delta).1 i) (fun x _ => ?_) ?_
  · split
    · exact hι.at0_lt hv.locator.1 i
    · split
      · exact hι.size_pos
      · exact hι.mulIndex_lt _ _
  · rw [← hι.coeff_polyOf, hι.polyOf_bmUpdate hv, Polynomial.coeff_sub, Polynomial.coeff_C_mul, ← hterm,
      hι.sub_eq_add hbin, hι.coeff_polyOf]
    simp

/-- The variables of BM run through the recurrence of R285. -/
theorem Realizes.bmRun (hbin : BinaryField s) :
    BmRun s (fun r => at0 (bmVars s r).locator) (fun r => at0 (bmVars s r).aux) (fun r => (bmVars s r).len)
      (fun r => (bmVars s r).mc) (fun r => (bmVars s r).bd) (bmDiscrepancy s)
      (fun r => gdiv (fieldView s) (bmDiscrepancy s r) (bmVars s r).bd) where
  start := ⟨fun i => by cases i <;> rfl, rfl, rfl, rfl, rfl⟩
  discrepancy := fun r hr => (hι.isXorSum_discrepancy hsyn hbin hr).2
  kept := fun r _ h0 => by
    rw [bmVars_succ, bmStep_of_zero h0]
    exact ⟨rfl, rfl, rfl, rfl, rfl⟩
  updated := fun r hr h0 => by
    have hel := (hι.bmInv_bmVars hsyn r).elements
    have hlt := (hι.isXorSum_discrepancy hsyn hbin hr).1
    refine ⟨hι.gdiv_lt _ _, ?_, fun i => ?_⟩
    · rw [mulIndex_eq]
      exact gmul_gdiv hι.order_pos (Nat.le_sub_one_of_lt hlt) hel.bd.2 (Nat.le_sub_one_of_lt hel.bd.1)
    · rw [bmVars_succ, locator_bmStep h0]
      exact hι.isXorSum_bmUpdate hbin hel _ i
  longer := fun r _ h0 hlen => by
    rw [bmVars_succ, bmStep_of_longer h0 hlen]
    exact ⟨rfl, rfl, rfl, rfl⟩
  sameLength := fun r _ h0 hlen => by
    rw [bmVars_succ, bmStep_of_sameLength h0 hlen]
    exact ⟨rfl, rfl, rfl, rfl⟩

end Run

theorem winNat_bmState (s : State) (w : Win) (i : Nat) :
    winNat (bmState s) w i = winNat (setWin s .lambda (bmFinal s).locator) w i :=
  winNat_congr (by simp [bmState, putLocator]) (by simp [bmState, putLocator]) w i

theorem holds_bmState {s : State} (hwf : Memory.wf s.win = true) (hred : Reduced (fieldView s) (bmFinal s).locator) :
    Holds (bmState s) .lambda (bmFinal s).locator :=
  fun i hi => (winNat_bmState s .lambda i).trans (holds_setWin hwf .lambda hred.1 i hi)

/-- LLEN and LREG hold the locator's length and L (R284). -/
theorem Realizes.toNat_llen_lreg {s : State} {K : Type} [Field K] {ι : Nat → K} (hι : Realizes (fieldView s) ι)
    (hp : s.params.wf = true) (hcap : BchCapacity s) (hsyn : ∀ u < 2 * s.bt.toNat, winNat s .syn u < s.fsize.toNat) :
    (bmState s).llen.toNat = (bmFinal s).locator.length ∧ (bmState s).lreg.toNat = (bmFinal s).len := by
  have hlen := hι.length_locator_le hsyn
  have hL := (hι.bmInv_bmFinal hsyn).massey.len_le
  have hbuf := hcap.length_le hp
  have hdepth := nbuf_le_of_wf hp
  exact ⟨toNat_toWord (by omega), toNat_toWord (by omega)⟩

/-- Settles O49: the recurrence by `bmRun`, the bounds and the zero sequence by what its passes keep. -/
theorem bmRule : Obligations.BmRule := by
  unfold Obligations.BmRule
  intro s hinv hbin hcap hsyn
  obtain ⟨K, _, ι, hι⟩ := hbin.1.exists_realizes
  obtain ⟨hel, hm⟩ := hι.bmInv_bmFinal hsyn
  have hholds := holds_bmState hinv.memory hel.locator
  have hlen := one_le_length_trim (bmFinal s).locator
  rw [hel.locator.2] at hlen
  refine ⟨bmState s, (bmFinal s).locator.length, (bmFinal s).len, exec_bm_ok hbin hcap hsyn, rfl, rfl, rfl, rfl,
    hι.length_locator_le hsyn, hm.len_le, (hholds 0 hlen).trans (hι.at0_locator_zero hsyn),
    hholds.trimmed hel.locator.2, fun i hi => hholds i hi ▸ hι.at0_lt hel.locator.1 i,
    ⟨_, _, _, _, _, _, _, hι.bmRun hsyn hbin, rfl, hholds.coeff⟩, fun hzero => ?_⟩
  have hS : polyOf ι (bmSequence s) = 0 :=
    (hι.polyOf_eq_zero_iff (coeffs_bmSequence hsyn)).2 ((trim_winNats_eq_zero_iff ..).2 hzero)
  have hL : (bmFinal s).len ≤ 0 := hm.minimal 1 0 Polynomial.coeff_one_zero Polynomial.natDegree_one.le fun j _ _ => by
    rw [hS, mul_zero, Polynomial.coeff_zero]
  have hle := hι.length_locator_le hsyn
  exact ⟨le_antisymm (hle.trans (Nat.succ_le_succ hL)) hlen, Nat.le_zero.1 hL⟩

/-- The recurrence with the coefficients c on the syndromes, as a polynomial that generates the sequence. -/
theorem Realizes.generates_iff {s : State} {K : Type} [Field K] {ι : Nat → K} (hι : Realizes (fieldView s) ι)
    (hbin : BinaryField s) (hsyn : ∀ u < 2 * s.bt.toNat, winNat s .syn u < s.fsize.toNat) {c : Nat → Nat} {L : Nat}
    {p : List Nat} (hp : Coeffs (fieldView s) p) (hdeg : (polyOf ι p).natDegree ≤ L) (hc : ∀ i ≤ L, c i = at0 p i) :
    Generates s c L ↔ GeneratesTo (polyOf ι (bmSequence s)) (polyOf ι p) L (2 * s.bt.toNat) := by
  refine forall_congr' fun r => forall₂_congr fun hLr hr => ?_
  rw [hι.isXorSum_range_iff hbin hι.size_pos fun i => hι.mulIndex_lt _ _, hι.zero, eq_comm,
    coeff_mul_of_natDegree_le hdeg hLr]
  refine Eq.congr_left (Finset.sum_congr rfl fun i hi => ?_)
  rw [hc i (Nat.lt_succ_iff.1 (Finset.mem_range.1 hi)), hι.mulIndex_eq_mul (hι.at0_lt hp i) (hsyn _ (by omega)),
    hι.coeff_polyOf, hι.coeff_polyOf, at0_bmSequence (by omega)]

/-- Settles O50: the locator generates the sequence, and L is least, by `Massey` after the last pass. -/
theorem bmGeneratesSequence : Obligations.BmGeneratesSequence := by
  unfold Obligations.BmGeneratesSequence
  intro s t hinv hbin hcap hsyn hexec
  obtain rfl := Host.Outcome.next.inj ((exec_bm_ok hbin hcap hsyn).symm.trans hexec)
  obtain ⟨K, _, ι, hι⟩ := hbin.1.exists_realizes
  obtain ⟨hel, hm⟩ := hι.bmInv_bmFinal hsyn
  obtain ⟨hllen, hlreg⟩ := hι.toNat_llen_lreg hinv.params hcap hsyn
  rw [hllen, hlreg]
  refine ⟨?_, fun c L h0 hc hgen => ?_⟩
  · exact (hι.generates_iff hbin hsyn hel.locator.1 hm.degree
      fun i _ => (holds_bmState hinv.memory hel.locator).coeff i).2 hm.generates
  · have hp : Coeffs (fieldView s) (tabulate (L + 1) c) := coeffs_tabulate hc
    have hat (i : Nat) (hi : i ≤ L) : c i = at0 (tabulate (L + 1) c) i := by rw [at0_tabulate, if_pos (by omega)]
    have hdeg : (polyOf ι (tabulate (L + 1) c)).natDegree ≤ L := by
      have htrim := length_trim_le (tabulate (L + 1) c)
      rw [hι.length_trim hp, length_tabulate] at htrim
      omega
    refine hm.minimal _ L ?_ hdeg ((hι.generates_iff hbin hsyn hp hdeg hat).1 hgen)
    rw [hι.coeff_polyOf, ← hat 0 (Nat.zero_le L), h0, hι.one]

end Sys2Proof.Machine
end

section
/-! PROOFS. BSYN: the syndromes of the received bits (O48), and CHIEN: the positions at which the locator vanishes (O51)
(spec/44_bch.md R281, R282, R290, R291). -/

namespace Sys2Proof.Machine

open Sys2Proof

/-! ### BSYN -/

/-- What BSYN and BDEC ask of a state: a built binary field, legal parameters and bits in IN (R280, R281). -/
structure BchReady (s : State) : Prop where
  inv : Inv s
  binary : BinaryField s
  length : BchLength s
  capacity : BchCapacity s
  bits : BchBits s

theorem needBchWord_ok {s : State} (h : BchReady s) : needBchWord s = .ok () := by
  rw [needBchWord, needBinary_ok h.binary, ok_bind, checkBchLength_ok h.length, ok_bind, checkBchCapacity_ok h.capacity,
    ok_bind, checkWindow_ok fun j hj => Nat.lt_succ_of_le (h.bits j hj)]

/-- The syndrome of R282 adds over the ones of the word. -/
theorem bchSyndrome_eq_foldl_onesOf (s : State) (i : Nat) :
    bchSyndrome (fieldView s) s.bn.toNat (bchIn s) i =
      (onesOf s).foldl (fun acc j => gadd (fieldView s) acc (i * j % (s.fsize.toNat - 1) + 1)) 0 := by
  rw [onesOf, List.foldl_filter, bchSyndrome]
  refine List.foldl_ext _ _ _ fun acc j hj => ?_
  have hin : at0 (bchIn s) j = winNat s .inp j := (at0_winNats ..).trans (if_pos (List.mem_range.1 hj))
  rw [hin, alpha_natCast]
  simp only [beq_iff_eq]
  rfl

theorem at0_bdecSyndromes {s : State} {u : Nat} (hu : u < 2 * s.bt.toNat) :
    at0 (bdecSyndromes s) u = bchSyndrome (fieldView s) s.bn.toNat (bchIn s) (s.bfcr.toNat + u) :=
  (at0_tabulate ..).trans (if_pos hu)

@[simp] theorem length_bdecSyndromes (s : State) : (bdecSyndromes s).length = 2 * s.bt.toNat := length_bsyn ..

theorem isZero_bdecSyndromes {s : State} :
    isZero (bdecSyndromes s) = true ↔ ∀ u < 2 * s.bt.toNat, at0 (bdecSyndromes s) u = 0 := by
  rw [isZero_iff, length_bdecSyndromes]

theorem FieldOk.exponent_lt {s : State} (h : FieldOk s) (e : Nat) : e % (s.fsize.toNat - 1) + 1 < s.fsize.toNat := by
  have hsize := h.two_le_size
  have hmod := Nat.mod_lt e (show 0 < s.fsize.toNat - 1 by omega)
  omega

/-- The syndrome of index u is the one that BSYN computes. -/
theorem isBchSyndrome_iff {s : State} (hbin : BinaryField s) {u v : Nat} :
    IsBchSyndrome s u v ↔ v = bchSyndrome (fieldView s) s.bn.toNat (bchIn s) (s.bfcr.toNat + u) := by
  obtain ⟨K, _, ι, hι⟩ := hbin.1.exists_realizes
  have hterm (j : Nat) := hbin.1.exponent_lt ((s.bfcr.toNat + u) * j)
  obtain ⟨hlt, hsum⟩ := hι.foldl_gadd (is := onesOf s) hι.size_pos fun j _ => hterm j
  rw [hι.zero, zero_add] at hsum
  rw [bchSyndrome_eq_foldl_onesOf, IsBchSyndrome]
  constructor
  · intro hv
    exact hι.injective v hv.1 _ hlt (((hι.isXorSum_iff hbin hv.1 fun j _ => hterm j).1 hv).trans hsum.symm)
  · rintro rfl
    exact hι.isXorSum hbin hlt (fun j _ => hterm j) hsum

/-- BSYN stores the syndromes. -/
theorem isBchSyndrome_at0_bdecSyndromes {s : State} (hbin : BinaryField s) {u : Nat} (hu : u < 2 * s.bt.toNat) :
    IsBchSyndrome s u (at0 (bdecSyndromes s) u) := (isBchSyndrome_iff hbin).2 (at0_bdecSyndromes hu)

theorem coeffs_bdecSyndromes {s : State} (hbin : BinaryField s) : Coeffs (fieldView s) (bdecSyndromes s) :=
  coeffs_tabulate fun _ => ((isBchSyndrome_iff hbin).2 rfl).1

theorem isBchSyndrome_zero_iff {s : State} (hbin : BinaryField s) :
    (∀ u < 2 * s.bt.toNat, IsBchSyndrome s u 0) ↔ isZero (bdecSyndromes s) = true := by
  rw [isZero_bdecSyndromes]
  exact forall₂_congr fun u hu => by rw [isBchSyndrome_iff hbin, at0_bdecSyndromes hu, eq_comm]

/-- The completion of BSYN. -/
def bsynState (s : State) : State :=
  complete .noError 0 { setWin s .syn (bdecSyndromes s) with result0 := if isZero (bdecSyndromes s) then 0 else 1 }

theorem exec_bsyn_ok {s : State} (h : BchReady s) : exec .bsyn s = .next (bsynState s) :=
  conclude_bind_ok (needBchWord_ok h) _

theorem holds_bsynState {s : State} (h : BchReady s) : Holds (bsynState s) .syn (bdecSyndromes s) :=
  holds_setWin h.inv.memory .syn (coeffs_bdecSyndromes h.binary)

/-- Settles O48: SYN holds the syndromes of R282, whose sums in the field are those of the digits. -/
theorem bsynRule : Obligations.BsynRule := by
  unfold Obligations.BsynRule
  intro s hinv hbin hlen hcap hbits
  have h : BchReady s := ⟨hinv, hbin, hlen, hcap, hbits⟩
  have hsyn (u : Nat) (hu : u < 2 * s.bt.toNat) : winNat (bsynState s) .syn u = at0 (bdecSyndromes s) u :=
    holds_bsynState h u (hu.trans_eq (length_bdecSyndromes s).symm)
  refine ⟨bsynState s, exec_bsyn_ok h, rfl, fun u hu => hsyn u hu ▸ isBchSyndrome_at0_bdecSyndromes hbin hu,
    if_congr ?_ rfl rfl⟩
  rw [isZero_bdecSyndromes]
  exact forall₂_congr fun u hu => by rw [hsyn u hu]

/-! ### CHIEN -/

/-- The positions of the Chien search are those at which the locator vanishes (R290). -/
theorem Realizes.mem_chienPositions {F : FieldView} {K : Type} [Field K] {ι : Nat → K} (hι : Realizes F ι)
    {p : List Nat} (hp : Coeffs F p) (n i : Nat) :
    i ∈ chienPositions F n p ↔ i < n ∧ (polyOf ι p).eval (ι (alpha F (-(i : Int)))) = 0 := by
  obtain ⟨hlt, hval⟩ := hι.peval_spec hp (hι.alpha_lt (-(i : Int)))
  rw [chienPositions, List.mem_filter, List.mem_range, beq_iff_eq, ← hval, hι.eq_zero_iff hlt]

theorem length_chienPositions_le (F : FieldView) (n : Nat) (p : List Nat) : (chienPositions F n p).length ≤ n :=
  (List.length_filter_le _ _).trans_eq List.length_range

theorem pairwise_chienPositions (F : FieldView) (n : Nat) (p : List Nat) : (chienPositions F n p).Pairwise (· < ·) :=
  List.pairwise_lt_range.filter _

/-- The locator CHIEN reads (R290). -/
def chienLocator (s : State) : List Nat := trim (winNats s .lambda s.llen.toNat)

/-- The positions CHIEN finds. -/
def chienResult (s : State) : List Nat := chienPositions (fieldView s) s.bn.toNat (chienLocator s)

/-- The completion of CHIEN. -/
def chienState (s : State) : State :=
  complete .noError 0 (putResult0 (setWin s .pos (chienResult s)) (chienResult s).length)

theorem exec_chien_ok {s : State} (hbin : BinaryField s) (hlen : BchLength s) (hcap : s.llen.toNat ≤ s.params.nbuf)
    (hloc : ∀ i < s.llen.toNat, winNat s .lambda i < s.fsize.toNat) : exec .chien s = .next (chienState s) :=
  (conclude_bind_ok (needBinary_ok hbin) _).trans ((conclude_bind_ok (checkBchLength_ok hlen) _).trans
    ((conclude_bind_ok (capacity_ok hcap 9) _).trans (conclude_bind_ok (checkWindow_ok hloc 7) _)))

theorem coeffs_chienPositions {s : State} (hlen : BchLength s) (p : List Nat) :
    Coeffs (fieldView s) (chienPositions (fieldView s) s.bn.toNat p) := fun c hc => by
  have hlt : c < s.bn.toNat := List.mem_range.1 (List.mem_filter.1 hc).1
  have hsize := hlen.2.1
  change c < s.fsize.toNat
  omega

theorem holds_chienState {s : State} (hwf : Memory.wf s.win = true) (hlen : BchLength s) :
    Holds (chienState s) .pos (chienResult s) := holds_setWin hwf .pos (coeffs_chienPositions hlen _)

/-- The words of a stored list are its entries. -/
theorem Holds.exists_eq_iff {t : State} {w : Win} {p : List Nat} (h : Holds t w p) (x : Nat) :
    (∃ c < p.length, winNat t w c = x) ↔ x ∈ p := by
  rw [List.mem_iff_getElem]
  refine exists_congr fun c => ?_
  refine ⟨fun ⟨hc, hx⟩ => ⟨hc, ?_⟩, fun ⟨hc, hx⟩ => ⟨hc, ?_⟩⟩
  · rw [← at0_eq_getElem hc, ← h c hc, hx]
  · rw [h c hc, at0_eq_getElem hc, hx]

/-- The exponent of x^(-p) (R168). -/
theorem BchLength.alpha_neg {s : State} (h : BchLength s) {p : Nat} (hp : p < s.bn.toNat) :
    alpha (fieldView s) (-(p : Int)) = (s.fsize.toNat - 1 - p) % (s.fsize.toNat - 1) + 1 := by
  have horder : (fieldView s).order = s.fsize.toNat - 1 := rfl
  have hn := h.2.1
  rw [← alpha_add_order, show -(p : Int) + (fieldView s).order = ((s.fsize.toNat - 1 - p : Nat) : Int) by omega,
    alpha_natCast, horder]

theorem Realizes.coeffs_chienLocator {s : State} {K : Type} [Field K] {ι : Nat → K} (hι : Realizes (fieldView s) ι)
    (hloc : ∀ i < s.llen.toNat, winNat s .lambda i < s.fsize.toNat) : Coeffs (fieldView s) (chienLocator s) :=
  hι.coeffs_trim (coeffs_winNats hloc)

/-- The value of the locator in LAMBDA at an element x is 0, as the sum of LAMBDA[i] x^i. -/
theorem Realizes.isXorSum_locator_iff {s : State} {K : Type} [Field K] {ι : Nat → K} (hι : Realizes (fieldView s) ι)
    (hbin : BinaryField s) (hloc : ∀ i < s.llen.toNat, winNat s .lambda i < s.fsize.toNat) {x : Nat}
    (hx : x < s.fsize.toNat) :
    (IsXorSum s 0 (List.range s.llen.toNat) fun i => mulIndex s (winNat s .lambda i) (powIndex s x i)) ↔
      (polyOf ι (chienLocator s)).eval (ι x) = 0 := by
  rw [hι.isXorSum_range_iff hbin hι.size_pos fun i => hι.mulIndex_lt _ _, hι.zero, eq_comm, chienLocator,
    hι.polyOf_trim, eval_polyOf, length_winNats]
  refine Eq.congr_left (Finset.sum_congr rfl fun i hi => ?_)
  have hi : i < s.llen.toNat := Finset.mem_range.1 hi
  obtain ⟨hpow, heq⟩ := hι.powIndex_spec hx i
  rw [hι.mulIndex_eq_mul (hloc i hi) hpow, heq, at0_winNats, coeff, if_pos hi]

/-- Settles O51: POS holds the filtered positions, whose condition is the sum in the field. -/
theorem chienRule : Obligations.ChienRule := by
  unfold Obligations.ChienRule
  intro s hinv hbin hlen hcap hloc
  obtain ⟨K, _, ι, hι⟩ := hbin.1.exists_realizes
  have hholds := holds_chienState hinv.memory hlen
  refine ⟨chienState s, (chienResult s).length, exec_chien_ok hbin hlen hcap hloc, rfl, rfl,
    length_chienPositions_le _ _ _, fun c hc => ?_, fun p => ?_⟩
  · rw [hholds c (by omega), hholds (c + 1) hc, at0_eq_getElem (by omega), at0_eq_getElem hc]
    exact List.pairwise_iff_getElem.1 (pairwise_chienPositions _ _ _) _ _ _ _ (Nat.lt_succ_self c)
  · rw [hholds.exists_eq_iff, chienResult, hι.mem_chienPositions (hι.coeffs_chienLocator hloc)]
    refine and_congr_right fun hp => ?_
    rw [← hlen.alpha_neg hp, hι.isXorSum_locator_iff hbin hloc (hι.alpha_lt _)]

end Sys2Proof.Machine
end

section
/-! PROOFS. BDEC of a word with zero syndromes (O52), and BDEC as BSYN, BM and CHIEN in sequence with the located bits
flipped (O53) (spec/44_bch.md R295 to R297). -/

namespace Sys2Proof.Machine

open Sys2Proof

/-! ### Flipped bits -/

/-- Each bit at a listed position is flipped (R295 step 6). -/
theorem at0_flipBits {w P : List Nat} (hnodup : P.Nodup) (hlt : ∀ p ∈ P, p < w.length) (j : Nat) :
    at0 (flipBits w P) j = if j ∈ P then 1 - at0 w j else at0 w j := by
  induction P generalizing w with
  | nil => rfl
  | cons p P ih =>
    obtain ⟨hp, hnodup⟩ := List.nodup_cons.1 hnodup
    have hpw := hlt p List.mem_cons_self
    rw [flipBits, List.foldl_cons, ← flipBits,
      ih hnodup fun q hq => (hlt q (List.mem_cons_of_mem _ hq)).trans_eq (List.length_set ..).symm, at0_set hpw]
    rcases eq_or_ne j p with rfl | hne
    · rw [if_neg hp, if_pos rfl, if_pos List.mem_cons_self]
    · simp [hne]

/-- A word of bits. -/
def IsBits (w : List Nat) : Prop := ∀ j, at0 w j ≤ 1

theorem IsBits.coeffs {s : State} (h : FieldOk s) {w : List Nat} (hw : IsBits w) :
    Coeffs (fieldView s) w := fun c hc => by
  obtain ⟨i, hi, rfl⟩ := List.getElem_of_mem hc
  exact at0_eq_getElem hi ▸ (hw i).trans_lt h.two_le_size

theorem isBits_one : IsBits [1]
  | 0 => le_rfl
  | _ + 1 => Nat.zero_le 1

theorem at0_bchIn {s : State} {j : Nat} (hj : j < s.bn.toNat) : at0 (bchIn s) j = winNat s .inp j :=
  (at0_winNats ..).trans (if_pos hj)

theorem isBits_bchIn {s : State} (h : BchBits s) : IsBits (bchIn s) := fun j => by
  rcases Nat.lt_or_ge j s.bn.toNat with hj | hj
  · exact at0_bchIn hj ▸ h j hj
  · exact at0_of_length_le ((length_bchIn s).trans_le hj) ▸ Nat.zero_le 1

theorem IsBits.flipBits {w P : List Nat} (hw : IsBits w) (hnodup : P.Nodup) (hlt : ∀ p ∈ P, p < w.length) :
    IsBits (flipBits w P) := fun j => by
  rw [at0_flipBits hnodup hlt]
  split
  · exact Nat.sub_le 1 _
  · exact hw j

/-! ### The completions of BDEC -/

theorem BchCapacity.length_bdecSyndromes_le {s : State} (h : BchCapacity s) (hp : s.params.wf = true) :
    (bdecSyndromes s).length ≤ 1024 := by
  have hdepth := nbuf_le_of_wf hp
  have hsize := h.length_le hp
  rw [length_bdecSyndromes]
  omega

theorem BchLength.bn_le {s : State} (h : BchLength s) (hp : s.params.wf = true) : s.bn.toNat ≤ 1024 :=
  h.2.2.trans (nbuf_le_of_wf hp)

/-- The state of BDEC with the located bits flipped, and its completion (R295 steps 3 to 6, R297). -/
def bdecFoundState (s : State) : State :=
  complete (if s.bt.toNat < (bdecPositions s).length then .uncorrectable else .noError)
    (if s.bt.toNat < (bdecPositions s).length then toWord (bdecPositions s).length else 0)
    (bdecLocated s (bdecSyndromes s) (bdecLocator s).1 (bdecLocator s).2 (bdecPositions s))

theorem exec_bdec_clean {s : State} (hcheck : needBchWord s = .ok ()) (hzero : isZero (bdecSyndromes s) = true) :
    exec .bdec s = .next (complete .noError 0 (bdecClean s (bdecSyndromes s))) := by
  change execBdec s = _
  rw [execBdec, hcheck]
  exact if_pos hzero

theorem exec_bdec_found {s : State} (hcheck : needBchWord s = .ok ()) (hzero : ¬ isZero (bdecSyndromes s) = true) :
    exec .bdec s = .next (bdecFoundState s) := by
  change execBdec s = _
  rw [execBdec, hcheck, bdecFoundState]
  refine (if_neg hzero).trans ?_
  split
  · exact if_pos ‹_›
  · exact if_neg ‹_›

/-- The word BDEC writes to OUT. -/
def bdecWord (s : State) : List Nat :=
  if s.bt.toNat < (bdecPositions s).length then bchIn s else flipBits (bchIn s) (bdecPositions s)

@[simp] theorem length_bdecWord (s : State) : (bdecWord s).length = s.bn.toNat := by
  unfold bdecWord
  split <;> simp

theorem nodup_bdecPositions (s : State) : (bdecPositions s).Nodup :=
  (pairwise_chienPositions _ _ _).imp fun hlt => hlt.ne

theorem lt_of_mem_bdecPositions {s : State} {p : Nat} (hp : p ∈ bdecPositions s) : p < s.bn.toNat :=
  List.mem_range.1 (List.mem_filter.1 hp).1

theorem at0_bdecWord {s : State} {j : Nat} (hj : j < s.bn.toNat) :
    at0 (bdecWord s) j =
      if (bdecPositions s).length ≤ s.bt.toNat ∧ j ∈ bdecPositions s then 1 - winNat s .inp j else winNat s .inp j := by
  unfold bdecWord
  split
  · rw [if_neg fun h => absurd h.1 (Nat.not_le.2 ‹_›), at0_bchIn hj]
  · rw [at0_flipBits (nodup_bdecPositions s) fun p hp => (lt_of_mem_bdecPositions hp).trans_eq (length_bchIn s).symm,
      at0_bchIn hj]
    simp [Nat.not_lt.1 ‹_›]

theorem isBits_bdecWord {s : State} (h : BchBits s) : IsBits (bdecWord s) := by
  unfold bdecWord
  split
  · exact isBits_bchIn h
  · exact (isBits_bchIn h).flipBits (nodup_bdecPositions s) fun p hp =>
      (lt_of_mem_bdecPositions hp).trans_eq (length_bchIn s).symm

/-- The state with the words of BDEC of a word with zero syndromes stored. -/
def bdecCleanStored (s : State) : State :=
  setWin (setWin (setWin s .syn (bdecSyndromes s)) .out (bchIn s)) .lambda [1]

theorem winNat_bdecClean (s : State) (w : Win) (i : Nat) :
    winNat (complete .noError 0 (bdecClean s (bdecSyndromes s))) w i = winNat (bdecCleanStored s) w i :=
  winNat_congr (by simp [bdecClean, putLocator, bdecCleanStored]) (by simp [bdecClean, putLocator, bdecCleanStored]) w i

/-- The state with the words of BDEC stored. -/
def bdecFoundStored (s : State) : State :=
  setWin (setWin (setWin (setWin s .syn (bdecSyndromes s)) .pos (bdecPositions s)) .out (bdecWord s)) .lambda
    (bdecLocator s).1

theorem winNat_bdecFoundState (s : State) (w : Win) (i : Nat) :
    winNat (bdecFoundState s) w i = winNat (bdecFoundStored s) w i :=
  winNat_congr (by simp [bdecFoundState, bdecLocated, putLocator, bdecFoundStored, bdecWord])
    (by simp [bdecFoundState, bdecLocated, putLocator, bdecFoundStored]) w i

section Checked

variable {s : State} (h : BchReady s)

include h

/-- The words of the clean completion. -/
theorem holds_bdecCleanStored :
    Holds (bdecCleanStored s) .syn (bdecSyndromes s) ∧ Holds (bdecCleanStored s) .out (bchIn s) ∧
      Holds (bdecCleanStored s) .lambda [1] := by
  have hsyn := h.capacity.length_bdecSyndromes_le h.inv.params
  have hout : (bchIn s).length ≤ 1024 := (length_bchIn s).trans_le (h.length.bn_le h.inv.params)
  have hone : [1].length ≤ 1024 := by decide
  have hwf := h.inv.memory
  have hwf1 := setWin_wf s hwf .syn (bdecSyndromes s)
  have hwf2 := setWin_wf _ hwf1 .out (bchIn s)
  refine ⟨?_, ?_, ?_⟩
  · exact ((holds_setWin hwf .syn (coeffs_bdecSyndromes h.binary)).setWin_of_ne hwf1 (by decide) hsyn hout).setWin_of_ne
      hwf2 (by decide) hsyn hone
  · exact (holds_setWin hwf1 .out ((isBits_bchIn h.bits).coeffs h.binary.1)).setWin_of_ne hwf2 (by decide) hout hone
  · exact holds_setWin (s := s) hwf2 .lambda (isBits_one.coeffs h.binary.1)

end Checked

/-- Settles O52: the clean completion stores zero syndromes, IN and the locator 1, and no word of POS. -/
theorem bdecCleanWord : Obligations.BdecCleanWord := by
  unfold Obligations.BdecCleanWord
  intro s hinv hbin hlen hcap hbits hzero
  have h : BchReady s := ⟨hinv, hbin, hlen, hcap, hbits⟩
  rw [isBchSyndrome_zero_iff hbin] at hzero
  obtain ⟨hsyn, hout, hone⟩ := holds_bdecCleanStored h
  refine ⟨_, exec_bdec_clean (needBchWord_ok h) hzero, rfl, rfl, fun u hu => ?_, fun j hj => ?_, ?_,
    rfl, rfl, rfl, rfl, fun a ha => byteAt_complete (byteKept_bdecClean hinv.memory ?_ ?_ ?_) _ _⟩
  · rw [winNat_bdecClean, hsyn u (by rwa [length_bdecSyndromes]), isZero_bdecSyndromes.1 hzero u hu]
  · rw [winNat_bdecClean, hout j (by rwa [length_bchIn]), at0_bchIn hj]
  · rw [winNat_bdecClean, hone 0 one_pos]
    rfl
  all_goals
    have hsize := hcap.length_bdecSyndromes_le hinv.params
    have hn := hlen.bn_le hinv.params
    simp only [inWindow, winBase] at ha ⊢
    omega

/-! ### BSYN, BM and CHIEN in sequence -/

/-- The variables Berlekamp-Massey ends with on the syndromes of BDEC. -/
def bdecFinal (s : State) : BmVars := bmAt (fieldView s) (bdecSyndromes s) (2 * s.bt.toNat)

/-- The state in which CHIEN runs, BSYN and BM before it. -/
def locatedState (s : State) : State := bmState (bsynState s)

/-- What CHIEN reads beside LAMBDA and LLEN is as before BSYN and BM. -/
theorem locatedState_registers (s : State) :
    (locatedState s).bn = s.bn ∧ (locatedState s).fsize = s.fsize ∧ (locatedState s).params = s.params := by
  simp [locatedState, bmState, bsynState, putLocator]

theorem BchLength.locatedState {s : State} (h : BchLength s) : BchLength (locatedState s) := by
  obtain ⟨hbn, hsize, hparams⟩ := locatedState_registers s
  rwa [BchLength, hbn, hsize, hparams]

theorem Holds.winNats_eq {t : State} {w : Win} {p : List Nat} (h : Holds t w p) : winNats t w p.length = p :=
  eq_of_at0_eq (length_winNats ..) fun i => (at0_winNats ..).trans (h.coeff i)

theorem fieldView_exec {i : Instr} {s t : State} (hf : i ≠ .fbuild) (hc : i ≠ .cbuild) (h : exec i s = .next t) :
    fieldView t = fieldView s := fieldView_congr (exec_sameBuilt hf hc h).1

theorem BinaryField.of_exec {i : Instr} {s t : State} (hbin : BinaryField s) (hf : i ≠ .fbuild) (hc : i ≠ .cbuild)
    (hw : Memory.wf s.win = true) (h : exec i s = .next t) : BinaryField t := by
  have hsame := (exec_sameBuilt hf hc h).1
  obtain ⟨-, -, hq, -⟩ := id hsame
  exact ⟨hbin.1.of_same hsame (exec_untouched hw h).1.1, hq.trans hbin.2⟩

theorem bdecLocator_eq {s : State} (hbin : BinaryField s) :
    bdecLocator s = ((bdecFinal s).locator, (bdecFinal s).len) := by
  obtain ⟨K, _, ι, hι⟩ := hbin.1.exists_realizes
  exact hι.berlekampMassey_eq (coeffs_bdecSyndromes hbin) _

section Checked

variable {s : State} (h : BchReady s)

include h

/-- The locator BDEC finds is made of elements and fits LAMBDA (R286). -/
theorem bdecFinal_bounds : Reduced (fieldView s) (bdecFinal s).locator ∧
    (bdecFinal s).locator.length ≤ s.params.nbuf ∧ (bdecFinal s).len < s.params.nbuf := by
  obtain ⟨K, _, ι, hι⟩ := h.binary.1.exists_realizes
  have hS := coeffs_bdecSyndromes h.binary
  obtain ⟨hel, hm⟩ := hι.bmInv hS (2 * s.bt.toNat)
  have hle := hι.length_bmAt_le hS (2 * s.bt.toNat)
  have hL := hm.len_le
  have hbuf := h.capacity.length_le h.inv.params
  exact ⟨hel.locator, by rw [bdecFinal]; omega, by rw [bdecFinal]; omega⟩

/-- BM after BSYN finds the locator of BDEC. -/
theorem exec_bm_bsynState : exec .bm (bsynState s) = .next (locatedState s) ∧ bmFinal (bsynState s) = bdecFinal s := by
  have hexec := exec_bsyn_ok h
  have hview := fieldView_exec (by decide) (by decide) hexec
  have hholds := holds_bsynState h
  have hseq : bmSequence (bsynState s) = bdecSyndromes s := by
    have := hholds.winNats_eq
    rwa [length_bdecSyndromes] at this
  have hbin1 := h.binary.of_exec (by decide) (by decide) h.inv.memory hexec
  refine ⟨exec_bm_ok hbin1 h.capacity fun u hu => ?_, ?_⟩
  · rw [hholds u (hu.trans_eq (length_bdecSyndromes s).symm)]
    exact (isBchSyndrome_at0_bdecSyndromes h.binary hu).1
  · rw [bmFinal, bmVars, hseq, hview, bdecFinal]
    rfl

/-- LAMBDA, LLEN and LREG after BSYN and BM hold what BDEC finds. -/
theorem holds_locatedState : Holds (locatedState s) .lambda (bdecFinal s).locator ∧
    (locatedState s).llen = toWord (bdecFinal s).locator.length ∧ (locatedState s).lreg = toWord (bdecFinal s).len := by
  have hexec := exec_bsyn_ok h
  have hview := fieldView_exec (by decide) (by decide) hexec
  have hfinal := (exec_bm_bsynState h).2
  obtain ⟨hred, -⟩ := bdecFinal_bounds h
  have hholds := holds_bmState (exec_untouched h.inv.memory hexec).2.1 (hview ▸ hfinal ▸ hred)
  rw [hfinal] at hholds
  exact ⟨hholds, hfinal ▸ rfl, hfinal ▸ rfl⟩

/-- CHIEN after BSYN and BM finds the positions of BDEC. -/
theorem exec_chien_locatedState : exec .chien (locatedState s) = .next (chienState (locatedState s)) ∧
    chienResult (locatedState s) = bdecPositions s := by
  have hexec1 := exec_bsyn_ok h
  have hexec2 := (exec_bm_bsynState h).1
  have hwf1 := (exec_untouched h.inv.memory hexec1).2.1
  have hview : fieldView (locatedState s) = fieldView s :=
    (fieldView_exec (by decide) (by decide) hexec2).trans (fieldView_exec (by decide) (by decide) hexec1)
  have hbin1 := h.binary.of_exec (by decide) (by decide) h.inv.memory hexec1
  have hbin2 := hbin1.of_exec (by decide) (by decide) hwf1 hexec2
  obtain ⟨hred, hsize, -⟩ := bdecFinal_bounds h
  obtain ⟨hholds, hllen, -⟩ := holds_locatedState h
  have hdepth := nbuf_le_of_wf h.inv.params
  have hlen2 : (locatedState s).llen.toNat = (bdecFinal s).locator.length := by
    rw [hllen, toNat_toWord (by omega)]
  obtain ⟨hbn, hfsize, hparams⟩ := locatedState_registers s
  refine ⟨exec_chien_ok hbin2 h.length.locatedState ?_ fun i hi => ?_, ?_⟩
  · rw [hlen2, hparams]
    exact hsize
  · rw [hlen2] at hi
    rw [hholds i hi, at0_eq_getElem hi, hfsize]
    exact hred.1 _ (List.getElem_mem hi)
  · rw [chienResult, chienLocator, hlen2, hholds.winNats_eq, hred.2, hview, hbn, bdecPositions, bdecLocator_eq h.binary]

/-- Then the positions of BDEC stand in POS, and their count in RESULT0. -/
theorem holds_chienState_locatedState : Holds (chienState (locatedState s)) .pos (bdecPositions s) ∧
    (chienState (locatedState s)).result0 = toWord (bdecPositions s).length := by
  have hresult := (exec_chien_locatedState h).2
  have hwf1 := (exec_untouched h.inv.memory (exec_bsyn_ok h)).2.1
  have hwf2 := (exec_untouched hwf1 (exec_bm_bsynState h).1).2.1
  exact ⟨hresult ▸ holds_chienState hwf2 h.length.locatedState, hresult ▸ rfl⟩

/-- The words of the completion with located positions. -/
theorem holds_bdecFoundState :
    Holds (bdecFoundState s) .syn (bdecSyndromes s) ∧ Holds (bdecFoundState s) .pos (bdecPositions s) ∧
      Holds (bdecFoundState s) .out (bdecWord s) ∧ Holds (bdecFoundState s) .lambda (bdecFinal s).locator := by
  obtain ⟨hred, hsize, -⟩ := bdecFinal_bounds h
  have hsyn := h.capacity.length_bdecSyndromes_le h.inv.params
  have hpos : (bdecPositions s).length ≤ 1024 := (length_chienPositions_le _ _ _).trans (h.length.bn_le h.inv.params)
  have hout : (bdecWord s).length ≤ 1024 := (length_bdecWord s).trans_le (h.length.bn_le h.inv.params)
  have hloc := hsize.trans (nbuf_le_of_wf h.inv.params)
  have hwf := h.inv.memory
  have hwf1 := setWin_wf s hwf .syn (bdecSyndromes s)
  have hwf2 := setWin_wf _ hwf1 .pos (bdecPositions s)
  have hwf3 := setWin_wf _ hwf2 .out (bdecWord s)
  simp only [Holds, winNat_bdecFoundState, bdecFoundStored, bdecLocator_eq h.binary]
  refine ⟨?_, ?_, ?_, ?_⟩
  · exact (((holds_setWin hwf .syn (coeffs_bdecSyndromes h.binary)).setWin_of_ne hwf1 (by decide) hsyn
      hpos).setWin_of_ne hwf2 (by decide) hsyn hout).setWin_of_ne hwf3 (by decide) hsyn hloc
  · exact ((holds_setWin hwf1 .pos (coeffs_chienPositions h.length _)).setWin_of_ne hwf2 (by decide) hpos
      hout).setWin_of_ne hwf3 (by decide) hpos hloc
  · exact (holds_setWin hwf2 .out ((isBits_bdecWord h.bits).coeffs h.binary.1)).setWin_of_ne hwf3 (by decide) hout hloc
  · exact holds_setWin (s := s) hwf3 .lambda hred.1

end Checked

/-- The registers of the completion with located positions (R295 to R297). -/
theorem bdecFoundState_registers {s : State} (hbin : BinaryField s) :
    ((bdecFoundState s).llen = toWord (bdecFinal s).locator.length ∧
        (bdecFoundState s).lreg = toWord (bdecFinal s).len) ∧
      ((bdecFoundState s).result0 = toWord (bdecPositions s).length ∧
        (bdecFoundState s).result1 = toWord (bdecFinal s).len) ∧
      ((bdecFoundState s).errcode = (if s.bt.toNat < (bdecPositions s).length then .uncorrectable else .noError) ∧
        (bdecFoundState s).errinfo =
          if s.bt.toNat < (bdecPositions s).length then toWord (bdecPositions s).length else 0) ∧
      (bdecFoundState s).dstat = { DStat.clear with
        lmismatch := (bdecPositions s).length != (bdecFinal s).len
        buncorr := decide (s.bt.toNat < (bdecPositions s).length) } := by
  rw [bdecFoundState, bdecLocator_eq hbin]
  refine ⟨⟨rfl, rfl⟩, ⟨rfl, rfl⟩, ⟨rfl, ?_⟩, rfl⟩
  rw [complete_errinfo]
  split <;> rfl

theorem toWord_bne {m n : Nat} (hm : m < 2 ^ 32) (hn : n < 2 ^ 32) : (toWord m != toWord n) = (m != n) := by
  rw [Bool.eq_iff_iff, bne_iff_ne, bne_iff_ne, ne_eq, ← BitVec.toNat_inj, toNat_toWord hm, toNat_toWord hn]

/-- Settles O53: the completions of the four commands hold the same lists. -/
theorem bdecComposes : Obligations.BdecComposes := by
  unfold Obligations.BdecComposes
  intro s hinv hbin hlen hcap hbits hne
  have h : BchReady s := ⟨hinv, hbin, hlen, hcap, hbits⟩
  rw [isBchSyndrome_zero_iff hbin] at hne
  obtain ⟨hexec2, -⟩ := exec_bm_bsynState h
  obtain ⟨hexec3, -⟩ := exec_chien_locatedState h
  obtain ⟨hlam, hllen, hlreg⟩ := holds_locatedState h
  obtain ⟨hpos, hr0⟩ := holds_chienState_locatedState h
  obtain ⟨tsyn, tpos, tout, tlam⟩ := holds_bdecFoundState h
  obtain ⟨⟨tllen, tlreg⟩, ⟨tr0, tr1⟩, ⟨tcode, tinfo⟩, tdstat⟩ := bdecFoundState_registers hbin
  obtain ⟨-, hsize, hL⟩ := bdecFinal_bounds h
  have hdepth := nbuf_le_of_wf hinv.params
  have hcount : (bdecPositions s).length ≤ s.params.nbuf := (length_chienPositions_le _ _ _).trans hlen.2.2
  have hr0n : (chienState (locatedState s)).result0.toNat = (bdecPositions s).length := by
    rw [hr0, toNat_toWord (by omega)]
  refine ⟨_, _, _, _, exec_bsyn_ok h, hexec2, hexec3,
    exec_bdec_found (needBchWord_ok h) hne, rfl, rfl, rfl, fun u hu => ?syn, tllen.trans hllen.symm,
    tlreg.trans hlreg.symm, fun i hi => ?lambda, fun c hc => ?pos, tr0.trans hr0.symm, tr1.trans hlreg.symm, ?code,
    ?info, ?dstat, fun j hj => ?out⟩
  case syn =>
    have hu : u < (bdecSyndromes s).length := hu.trans_eq (length_bdecSyndromes s).symm
    rw [tsyn u hu, holds_bsynState h u hu]
  case lambda =>
    rw [tllen, toNat_toWord (by omega)] at hi
    rw [tlam i hi, hlam i hi]
  case pos =>
    rw [hr0n] at hc
    rw [tpos c hc, hpos c hc]
  case code => rw [tcode, hr0n]
  case info => rw [tinfo, hr0n, hr0]
  case dstat => rw [tdstat, hr0n, hr0, hlreg, toWord_bne (by omega) (by omega)]
  case out =>
    rw [tout j (hj.trans_eq (length_bdecWord s).symm), at0_bdecWord hj, hr0n]
    simp only [hpos.exists_eq_iff]

end Sys2Proof.Machine
end

section
/-! PROOFS. The checks of the BCH and polynomial commands in their order (O47) (spec/44_bch.md R280, R284, R290,
spec/41_polynomial.md R188, R191, R192): each lemma makes one check fail and those before it pass. -/

namespace Sys2Proof.Machine

open Sys2Proof

/-! ### The checks -/

theorem needBinary_error {s : State} (hv : s.status.fvalid = true) (hq : s.fqB ≠ 2) :
    needBinary s = .error { code := .notBinary, info := s.fqB } := by
  rw [needBinary, needField_ok hv, ok_bind, bne_iff_ne.2 hq, failIf_true]

theorem needBinary_of_valid {s : State} (hv : s.status.fvalid = true) (hq : s.fqB = 2) : needBinary s = .ok () := by
  rw [needBinary, needField_ok hv, ok_bind, hq]
  rfl

theorem checkBchLength_construction {s : State} (h : s.bn.toNat < 1 ∨ s.fsize.toNat - 1 < s.bn.toNat) :
    checkBchLength s = .error { code := .construction, info := 5 } := by
  rw [checkBchLength, ← Bool.decide_or, decide_eq_true h, failIf_true, error_bind]

theorem capacity_error {plen len : Nat} (h : plen < len) (info : Word) :
    failIf (plen < len) .capacity info = .error { code := .capacity, info := info } := by
  rw [decide_eq_true h, failIf_true]

theorem checkBchLength_capacity {s : State} (hpos : 1 ≤ s.bn.toNat) (hsize : s.bn.toNat ≤ s.fsize.toNat - 1)
    (hbuf : s.params.nbuf < s.bn.toNat) : checkBchLength s = .error { code := .capacity, info := 3 } := by
  rw [checkBchLength, decide_eq_false (Nat.not_lt.2 hpos), decide_eq_false (Nat.not_lt.2 hsize), Bool.or_self,
    failIf_false, ok_bind, capacity_error hbuf]

theorem checkBchCapacity_construction {s : State} (h : s.bt.toNat < 1) :
    checkBchCapacity s = .error { code := .construction, info := 6 } := by
  rw [checkBchCapacity, decide_eq_true h, failIf_true, error_bind]

theorem checkBchCapacity_capacity {s : State} (hpos : 1 ≤ s.bt.toNat) (hmax : s.params.tmax < s.bt.toNat) :
    checkBchCapacity s = .error { code := .capacity, info := 4 } := by
  rw [checkBchCapacity, decide_eq_false (Nat.not_lt.2 hpos), failIf_false, ok_bind, capacity_error hmax]

/-! ### The commands whose check phase is one of the shared ones -/

/-- The commands with the checks FIELD, BIN, NCHK, TCHK and INCHK (R280). -/
def wordCommands : List Instr := [.bsyn, .bdec]

/-- The commands with operands A and B (R188). -/
def pairCommands : List Instr := [.padd, .psub, .pmul, .pdivmod, .pgcd, .pxgcd]

/-- The commands with operand A only (R188). -/
def singleCommands : List Instr := [.peval, .pderiv]

section Shared

variable {s : State} {i : Instr} {code : ErrCode} {info : Word}

theorem exec_needBchWord_error (hi : i ∈ wordCommands) (h : needBchWord s = .error { code := code, info := info }) :
    exec i s = .next (complete code info s) := by
  simp only [wordCommands, List.mem_cons, List.not_mem_nil, or_false] at hi
  rcases hi with rfl | rfl
  · exact conclude_bind_error h _
  · change execBdec s = _
    rw [execBdec, h]
    rfl

theorem exec_needPolyAB_error (hi : i ∈ pairCommands) (h : needPolyAB s = .error { code := code, info := info }) :
    exec i s = .next (complete code info s) := by
  simp only [pairCommands, List.mem_cons, List.not_mem_nil, or_false] at hi
  rcases hi with rfl | rfl | rfl | rfl | rfl | rfl <;> exact conclude_bind_error h _

theorem exec_needPolyA_error (hi : i ∈ singleCommands) (h : needPolyA s = .error { code := code, info := info }) :
    exec i s = .next (complete code info s) := by
  simp only [singleCommands, List.mem_cons, List.not_mem_nil, or_false] at hi
  rcases hi with rfl | rfl <;> exact conclude_bind_error h _

/-- Every command of the two families begins with the checks of the built field (R188, R280). -/
theorem exec_needBinary_error (hi : i ∈ wordCommands ++ [.bm, .chien] ++ pairCommands ++ singleCommands)
    (h : needBinary s = .error { code := code, info := info }) : exec i s = .next (complete code info s) := by
  simp only [List.mem_append] at hi
  rcases hi with ((hi | hi) | hi) | hi
  · exact exec_needBchWord_error hi (by rw [needBchWord, h, error_bind])
  · simp only [List.mem_cons, List.not_mem_nil, or_false] at hi
    rcases hi with rfl | rfl <;> exact conclude_bind_error h _
  · exact exec_needPolyAB_error hi (by rw [needPolyAB, h, error_bind])
  · exact exec_needPolyA_error hi (by rw [needPolyA, h, error_bind])

variable (hbin : needBinary s = .ok ())

include hbin

theorem exec_checkBchLength_error (hi : i ∈ wordCommands ++ [.chien])
    (h : checkBchLength s = .error { code := code, info := info }) : exec i s = .next (complete code info s) := by
  rcases List.mem_append.1 hi with hi | hi
  · exact exec_needBchWord_error hi (by rw [needBchWord, hbin, ok_bind, h, error_bind])
  · obtain rfl := List.mem_singleton.1 hi
    exact (conclude_bind_ok hbin _).trans (conclude_bind_error h _)

/-- BM does not read BN, so NCHK is not among its checks (R284). -/
theorem exec_checkBchCapacity_error (hi : i ∈ wordCommands ++ [.bm]) (hlen : BchLength s ∨ i = .bm)
    (h : checkBchCapacity s = .error { code := code, info := info }) : exec i s = .next (complete code info s) := by
  rcases List.mem_append.1 hi with hi | hi
  · have hlen := hlen.resolve_right fun heq => absurd (heq ▸ hi) (by decide)
    exact exec_needBchWord_error hi (by rw [needBchWord, hbin, ok_bind, checkBchLength_ok hlen, ok_bind, h, error_bind])
  · obtain rfl := List.mem_singleton.1 hi
    exact (conclude_bind_ok hbin _).trans (conclude_bind_error h _)

/-- PALEN is checked first, by all polynomial commands. -/
theorem exec_palen_error (hi : i ∈ pairCommands ++ singleCommands) (h : s.params.plen < s.palen.toNat) :
    exec i s = .next (complete .capacity 6 s) := by
  rcases List.mem_append.1 hi with hi | hi
  · exact exec_needPolyAB_error hi (by rw [needPolyAB, hbin, ok_bind, capacity_error h, error_bind])
  · exact exec_needPolyA_error hi (by rw [needPolyA, hbin, ok_bind, capacity_error h, error_bind])

/-- The words of PA are checked behind the lengths of the operands. -/
theorem exec_checkA_error (hi : i ∈ pairCommands ++ singleCommands)
    (hb : s.pblen.toNat ≤ s.params.plen ∨ i = .peval ∨ i = .pderiv) (ha : s.palen.toNat ≤ s.params.plen)
    (h : checkWindow s .pa s.palen.toNat s.fsize.toNat 9 = .error { code := code, info := info }) :
    exec i s = .next (complete code info s) := by
  rcases List.mem_append.1 hi with hi | hi
  · have hb := hb.resolve_right fun heq => heq.elim (fun h => absurd (h ▸ hi) (by decide))
      fun h => absurd (h ▸ hi) (by decide)
    exact exec_needPolyAB_error hi (by
      rw [needPolyAB, hbin, ok_bind, capacity_ok ha, ok_bind, capacity_ok hb, ok_bind, h, error_bind])
  · exact exec_needPolyA_error hi (by rw [needPolyA, hbin, ok_bind, capacity_ok ha, ok_bind, h])

end Shared

/-- Settles O47: each clause makes one check fail and those before it pass. -/
theorem binaryErrors : Obligations.BinaryErrors := by
  unfold Obligations.BinaryErrors
  intro s hv
  refine ⟨fun hq i hi => exec_needBinary_error ((by decide : ∀ j ∈ _, j ∈ _) i hi) (needBinary_error hv hq),
    fun hq => ?_⟩
  have hbin := needBinary_of_valid hv hq
  refine ⟨fun i hi => ?length, fun i hi hlen => ?capacity, fun hlen hcap j hj hbad hfirst i hi => ?bits,
    fun hcap u hu hbad hfirst => ?syndromes, fun hlen hcap => ?llen, fun hlen hcap x hx hbad hfirst => ?locator,
    fun ha i hi => ?palen, fun ha hb i hi => ?pblen, fun ha x hx hbad hfirst i hi hb => ?wordsA,
    fun hA hb x hx hbad hfirst i hi => ?wordsB, fun hA hx => ?opa, fun hA hB hzero => ?zeroDivisor⟩
  case length =>
    have hmem := (by decide : ∀ j ∈ _, j ∈ wordCommands ++ [.chien]) i hi
    exact ⟨fun h => exec_checkBchLength_error hbin hmem (checkBchLength_construction h),
      fun hpos hsize hbuf => exec_checkBchLength_error hbin hmem (checkBchLength_capacity hpos hsize hbuf)⟩
  case capacity =>
    have hmem := (by decide : ∀ j ∈ _, j ∈ wordCommands ++ [.bm]) i hi
    exact ⟨fun h => exec_checkBchCapacity_error hbin hmem hlen (checkBchCapacity_construction h),
      fun hpos hmax => exec_checkBchCapacity_error hbin hmem hlen (checkBchCapacity_capacity hpos hmax)⟩
  case bits =>
    refine exec_needBchWord_error hi ?_
    rw [needBchWord, hbin, ok_bind, checkBchLength_ok hlen, ok_bind, checkBchCapacity_ok hcap, ok_bind]
    exact checkWindow_error hj hbad (fun x hx => Nat.lt_succ_of_le (hfirst x hx)) 4
  case syndromes =>
    exact (conclude_bind_ok hbin _).trans ((conclude_bind_ok (checkBchCapacity_ok hcap) _).trans
      (conclude_bind_error (checkWindow_error hu hbad hfirst 6) _))
  case llen =>
    exact (conclude_bind_ok hbin _).trans ((conclude_bind_ok (checkBchLength_ok hlen) _).trans
      (conclude_bind_error (capacity_error hcap 9) _))
  case locator =>
    exact (conclude_bind_ok hbin _).trans ((conclude_bind_ok (checkBchLength_ok hlen) _).trans
      ((conclude_bind_ok (capacity_ok hcap 9) _).trans (conclude_bind_error (checkWindow_error hx hbad hfirst 7) _)))
  case palen => exact exec_palen_error hbin ((by decide : ∀ j ∈ _, j ∈ _) i hi) ha
  case pblen =>
    refine exec_needPolyAB_error hi ?_
    rw [needPolyAB, hbin, ok_bind, capacity_ok ha, ok_bind, capacity_error hb, error_bind]
  case wordsA =>
    exact exec_checkA_error hbin ((by decide : ∀ j ∈ _, j ∈ _) i hi) hb ha (checkWindow_error hx hbad hfirst 9)
  case wordsB =>
    refine exec_needPolyAB_error hi ?_
    rw [needPolyAB, hbin, ok_bind, capacity_ok hA.1, ok_bind, capacity_ok hb, ok_bind, checkWindow_ok hA.2, ok_bind]
    exact checkWindow_error hx hbad hfirst 10
  case opa =>
    have hcheck : needPolyA s = .ok () := by
      rw [needPolyA, hbin, ok_bind, capacity_ok hA.1, ok_bind, checkWindow_ok hA.2]
    refine (conclude_bind_ok hcheck _).trans (conclude_bind_error ?_ _)
    rw [checkOpa, decide_eq_true hx, failIf_true]
    rfl
  case zeroDivisor =>
    have hcheck : needPolyAB s = .ok () := by
      rw [needPolyAB, hbin, ok_bind, capacity_ok hA.1, ok_bind, capacity_ok hB.1, ok_bind, checkWindow_ok hA.2, ok_bind,
        checkWindow_ok hB.2]
    refine (conclude_bind_ok hcheck _).trans (conclude_bind_error ?_ _)
    rw [(trim_polyB_eq_zero_iff s).2 hzero]
    rfl

end Sys2Proof.Machine
end

section
/-! PROOFS. Completion and errors (spec/60_exceptions.md R400 to R413, R420): each check phase reports codes of a known
list, so `exec_ending` says once what a command can end in. From it: every command completes (O18), an error writes no
output (O21), the codes of each command (O20, O22); beside it the order of the first checks (O20), what clears BUSY and
raises the interrupt line (O19), and the step that runs the command (O4). -/

namespace Sys2Proof.Machine

open Sys2Proof

/-! ### The codes a check phase reports -/

/-- The checks report codes of the list only. -/
def Raises {α : Type} (L : List ErrCode) (x : Except CmdError α) : Prop := ∀ e, x = .error e → e.code ∈ L

theorem Raises.mono {α : Type} {K L : List ErrCode} {x : Except CmdError α} (h : Raises K x)
    (hsub : K ⊆ L := by decide) : Raises L x := fun e he => hsub (h e he)

theorem Raises.bind {α β : Type} {K L : List ErrCode} {x : Except CmdError α} {f : α → Except CmdError β}
    (hx : Raises K x) (hf : ∀ a, Raises L (f a)) (hsub : K ⊆ L := by decide) : Raises L (x >>= f) := by
  intro e he
  rcases bind_eq_error.1 he with he | ⟨a, -, he⟩
  · exact hsub (hx e he)
  · exact hf a e he

theorem raises_failIf (bad : Bool) (code : ErrCode) (info : Word) : Raises [code] (failIf bad code info) := by
  intro e he
  rw [(failIf_eq_error.1 he).2]
  exact List.mem_singleton_self code

theorem raises_failAtFirst (n : Nat) (bad : Nat → Bool) (code : ErrCode) (info : Nat → Word) :
    Raises [code] (failAtFirst n bad code info) := by
  intro e he
  obtain ⟨i, -, -, -, rfl⟩ := failAtFirst_eq_error.1 he
  exact List.mem_singleton_self code

section Checks

variable (s : State)

theorem raises_needField : Raises [.fieldNotValid] (needField s) := raises_failIf _ _ _

theorem raises_needCode : Raises [.fieldNotValid, .codeNotValid] (needCode s) :=
  (raises_needField s).bind fun _ => (raises_failIf _ _ _).mono

theorem raises_needBinary : Raises [.fieldNotValid, .notBinary] (needBinary s) :=
  (raises_needField s).bind fun _ => (raises_failIf _ _ _).mono

theorem raises_checkOpa : Raises [.operandRange] (checkOpa s) := raises_failIf _ _ _

theorem raises_needElement : Raises [.fieldNotValid, .operandRange] (needElement s) :=
  (raises_needField s).bind fun _ => (raises_checkOpa s).mono

theorem raises_needElements : Raises [.fieldNotValid, .operandRange] (needElements s) :=
  (raises_needElement s).bind fun _ => (raises_failIf _ _ _).mono

theorem raises_checkVreg : Raises [.operandRange] (checkVreg s) := raises_failAtFirst _ _ _ _

theorem raises_checkWindow (w : Win) (count bound source : Nat) :
    Raises [.operandRange] (checkWindow s w count bound source) := raises_failAtFirst _ _ _ _

theorem raises_needPolyA : Raises [.fieldNotValid, .notBinary, .capacity, .operandRange] (needPolyA s) :=
  (raises_needBinary s).bind fun _ => (raises_failIf _ _ _).bind fun _ => (raises_checkWindow s _ _ _ _).mono

theorem raises_needPolyAB : Raises [.fieldNotValid, .notBinary, .capacity, .operandRange] (needPolyAB s) :=
  (raises_needBinary s).bind fun _ => (raises_failIf _ _ _).bind fun _ => (raises_failIf _ _ _).bind fun _ =>
    (raises_checkWindow s _ _ _ _).bind fun _ => (raises_checkWindow s _ _ _ _).mono

theorem raises_checkErasures : Raises [.capacity, .operandRange] (checkErasures s) :=
  (raises_failIf _ _ _).bind fun _ => (raises_checkWindow s _ _ _ _).mono

theorem raises_checkBchLength : Raises [.construction, .capacity] (checkBchLength s) :=
  (raises_failIf _ _ _).bind fun _ => (raises_failIf _ _ _).mono

theorem raises_checkBchCapacity : Raises [.construction, .capacity] (checkBchCapacity s) :=
  (raises_failIf _ _ _).bind fun _ => (raises_failIf _ _ _).mono

theorem raises_needBchWord :
    Raises [.fieldNotValid, .notBinary, .construction, .capacity, .operandRange] (needBchWord s) :=
  (raises_needBinary s).bind fun _ => (raises_checkBchLength s).bind fun _ => (raises_checkBchCapacity s).bind fun _ =>
    (raises_checkWindow s _ _ _ _).mono

theorem raises_checkFieldConfig :
    Raises [.incorrectCharacteristic, .incorrectDegree, .capacity, .incorrectPolynomial] (checkFieldConfig s) :=
  (raises_failIf _ _ _).bind fun _ => (raises_failIf _ _ _).bind fun _ => (raises_failIf _ _ _).bind fun _ =>
    (raises_failAtFirst _ _ _ _).bind fun _ => (raises_failIf _ _ _).mono

theorem raises_checkDistinct (table : List (List Nat)) : Raises [.fieldConstruction] (checkDistinct table) := by
  unfold checkDistinct
  split
  · rintro e ⟨⟩
    exact List.mem_singleton_self _
  · nofun

theorem raises_checkCodeConfig :
    Raises [.fieldNotValid, .construction, .capacity, .invalidShortening] (checkCodeConfig s) :=
  (raises_needField s).bind fun _ => (raises_failIf _ _ _).bind fun _ => (raises_failIf _ _ _).bind fun _ =>
    (raises_failIf _ _ _).bind fun _ => (raises_failIf _ _ _).bind fun _ => (raises_failIf _ _ _).bind fun _ =>
      (raises_failIf _ _ _).mono

theorem raises_checkOrthogonal (H : List (List Nat)) : Raises [.shapeOrOrthogonality] (checkOrthogonal s H) := by
  unfold checkOrthogonal
  split
  · rintro e ⟨⟩
    exact List.mem_singleton_self _
  · nofun

end Checks

/-! ### What a command ends in -/

/-- What the host controls and no command writes: CMD, WOB and IE. -/
def SameControl (s u : State) : Prop := u.cmd = s.cmd ∧ u.status.wob = s.status.wob ∧ u.ie = s.ie

theorem sameControl_refl (s : State) : SameControl s s := ⟨rfl, rfl, rfl⟩

theorem sameControl_complete {s u : State} (c : ErrCode) (info : Word) (h : SameControl s u) :
    SameControl s (complete c info u) := h

theorem sameControl_setWin {s u : State} (h : SameControl s u) (w : Win) (vs : List Nat) :
    SameControl s (setWin u w vs) := h

theorem sameControl_putResult0 {s u : State} (h : SameControl s u) (v : Nat) : SameControl s (putResult0 u v) := h

theorem sameControl_results {s u : State} (h : SameControl s u) (r0 r1 : Word) (d : DStat) :
    SameControl s { u with result0 := r0, result1 := r1, dstat := d } := h

theorem sameControl_putLocator {s u : State} (h : SameControl s u) (locator : List Nat) (L : Nat) :
    SameControl s (putLocator u locator L) := h

theorem sameControl_putPr0 {s u : State} (h : SameControl s u) (p : List Nat) : SameControl s (putPr0 u p) := h

theorem sameControl_putPr1 {s u : State} (h : SameControl s u) (p : List Nat) : SameControl s (putPr1 u p) := h

theorem sameControl_putPr2 {s u : State} (h : SameControl s u) (p : List Nat) : SameControl s (putPr2 u p) := h

theorem sameControl_putDecoding (s : State) (D : Decoding) (S1 : List Nat) : SameControl s (putDecoding s D S1) := by
  simp [SameControl, putDecoding]

theorem sameControl_bdecClean (s : State) (S : List Nat) : SameControl s (bdecClean s S) := by
  simp [SameControl, bdecClean, putLocator]

theorem sameControl_bdecLocated (s : State) (S locator : List Nat) (L : Nat) (P : List Nat) :
    SameControl s (bdecLocated s S locator L P) := by
  simp [SameControl, bdecLocated, putLocator]

/-- The state whose outputs an error of the command keeps: FBUILD and CBUILD have cleared on start (R402). -/
def startState (i : Instr) (s : State) : State :=
  if i = .fbuild then clearField s else if i = .cbuild then clearCode s else s

theorem sameControl_startState (i : Instr) (s : State) : SameControl s (startState i s) := by
  unfold startState
  split
  · exact ⟨rfl, rfl, rfl⟩
  · split
    · exact ⟨rfl, rfl, rfl⟩
    · exact sameControl_refl s

/-- The codes that the checks of a command name: those of R413, and for CBUILD the one of the check that R205 lets a
model keep. -/
def reportedErrors (i : Instr) : List ErrCode :=
  if i = .cbuild then .shapeOrOrthogonality :: possibleErrors i else possibleErrors i

/-- The completions of a command: its outputs with NONE, an error with the start state, or BDEC's outputs with
UNCORRECTABLE (R401, R402). -/
inductive Ending (i : Instr) (s : State) : State → Prop
  | outputs (u : State) (hu : SameControl s u) : Ending i s (complete .noError 0 u)
  | error (e : CmdError) (he : e.code ∈ reportedErrors i) : Ending i s (raiseError e (startState i s))
  | uncorrectable (u : State) (info : Word) (hi : i = .bdec) (hu : SameControl s u) :
      Ending i s (complete .uncorrectable info u)

/-- The checks report codes of the list, and the outputs leave CMD, WOB and IE. -/
def Concludes (L : List ErrCode) (s : State) (r : Except CmdError State) : Prop :=
  Raises L r ∧ Answers (SameControl s) r

theorem Concludes.outputs {L : List ErrCode} {s u : State} (h : SameControl s u) : Concludes L s (pure u) :=
  ⟨nofun, .pure h⟩

theorem Concludes.check {α : Type} {K L : List ErrCode} {s : State} {x : Except CmdError α}
    {f : α → Except CmdError State} (hx : Raises K x) (hf : ∀ a, Concludes L s (f a)) (hsub : K ⊆ L := by decide) :
    Concludes L s (x >>= f) := ⟨hx.bind (fun a => (hf a).1) hsub, .bind fun a => (hf a).2⟩

theorem Ending.of_conclude {i : Instr} {s t : State} {r : Except CmdError State}
    (h : conclude (startState i s) r = .next t) (hr : Concludes (reportedErrors i) s r) : Ending i s t := by
  rcases conclude_cases (startState i s) r with ⟨u, hu, heq⟩ | ⟨e, he, heq⟩
  · obtain rfl := Host.Outcome.next.inj (heq.symm.trans h)
    exact .outputs u (hr.2 u hu)
  · obtain rfl := Host.Outcome.next.inj (heq.symm.trans h)
    exact .error e (hr.1 e he)

theorem exec_bdec_ending {s t : State} (h : exec .bdec s = .next t) : Ending .bdec s t := by
  rcases hcheck : needBchWord s with e | ⟨⟩
  · obtain rfl := Host.Outcome.next.inj ((exec_needBchWord_error (by decide) hcheck).symm.trans h)
    exact .error e ((raises_needBchWord s).mono (by decide) e hcheck)
  by_cases hzero : isZero (bdecSyndromes s) = true
  · obtain rfl := Host.Outcome.next.inj ((exec_bdec_clean hcheck hzero).symm.trans h)
    exact .outputs _ (sameControl_bdecClean s _)
  · obtain rfl := Host.Outcome.next.inj ((exec_bdec_found hcheck hzero).symm.trans h)
    unfold bdecFoundState
    split
    · exact .uncorrectable _ _ rfl (sameControl_bdecLocated s _ _ _ _)
    · exact .outputs _ (sameControl_bdecLocated s _ _ _ _)

/-- Every command ends in one of the three ways, its error one that its checks name. -/
theorem exec_ending {i : Instr} {s t : State} (h : exec i s = .next t) : Ending i s t := by
  have same := sameControl_refl s
  cases i
  case nop => exact .of_conclude (r := pure s) h (.outputs same)
  case fbuild =>
    exact .of_conclude h (.check (raises_checkFieldConfig _) fun _ => .check (raises_checkDistinct _) fun _ =>
      .outputs ⟨rfl, rfl, rfl⟩)
  case cbuild =>
    exact .of_conclude h (.check (raises_checkCodeConfig _) fun _ => .check (raises_checkOrthogonal _ _) fun _ =>
      .outputs ⟨rfl, rfl, rfl⟩)
  case fadd | fsub | fmul =>
    exact .of_conclude h (.check (raises_needElements s) fun _ => .outputs (sameControl_putResult0 same _))
  case fdiv =>
    exact .of_conclude h (.check (raises_needElements s) fun _ => .check (raises_failIf _ _ _) fun _ =>
      .outputs (sameControl_putResult0 same _))
  case fpow | finv =>
    exact .of_conclude h (.check (raises_needElement s) fun _ => .check (raises_failIf _ _ _) fun _ =>
      .outputs (sameControl_putResult0 same _))
  case fi2v => exact .of_conclude h (.check (raises_needElement s) fun _ => .outputs ⟨rfl, rfl, rfl⟩)
  case fv2i =>
    exact .of_conclude h (.check (raises_needField s) fun _ => .check (raises_checkVreg s) fun _ =>
      .outputs (sameControl_putResult0 same _))
  case enc =>
    exact .of_conclude h (.check (raises_needCode s) fun _ => .check (raises_checkWindow s _ _ _ _) fun _ =>
      .outputs (sameControl_putResult0 (sameControl_setWin same _ _) _))
  case synd =>
    exact .of_conclude h (.check (raises_needCode s) fun _ => .check (raises_checkErasures s) fun _ =>
      .outputs (sameControl_results (sameControl_setWin same _ _) _ _ _))
  case hdec =>
    exact .of_conclude h (.check (raises_needCode s) fun _ => .check (raises_checkErasures s) fun _ =>
      .outputs (sameControl_putDecoding s _ _))
  case bsyn =>
    exact .of_conclude h (.check (raises_needBchWord s) fun _ =>
      .outputs (sameControl_results (sameControl_setWin same _ _) _ _ _))
  case bm =>
    exact .of_conclude h (.check (raises_needBinary s) fun _ => .check (raises_checkBchCapacity s) fun _ =>
      .check (raises_checkWindow s _ _ _ _) fun _ =>
        .outputs (sameControl_putResult0 (sameControl_putLocator same _ _) _))
  case chien =>
    exact .of_conclude h (.check (raises_needBinary s) fun _ => .check (raises_checkBchLength s) fun _ =>
      .check (raises_failIf _ _ _) fun _ => .check (raises_checkWindow s _ _ _ _) fun _ =>
        .outputs (sameControl_putResult0 (sameControl_setWin same _ _) _))
  case bdec => exact exec_bdec_ending h
  case padd | psub | pgcd =>
    exact .of_conclude h (.check (raises_needPolyAB s) fun _ => .outputs (sameControl_putPr0 same _))
  case pxgcd =>
    exact .of_conclude h (.check (raises_needPolyAB s) fun _ =>
      .outputs (sameControl_putPr2 (sameControl_putPr1 (sameControl_putPr0 same _) _) _))
  case pmul =>
    exact .of_conclude h (.check (raises_needPolyAB s) fun _ => .check (raises_failIf _ _ _) fun _ =>
      .outputs (sameControl_putPr0 same _))
  case pdivmod =>
    exact .of_conclude h (.check (raises_needPolyAB s) fun _ => .check (raises_failIf _ _ _) fun _ =>
      .outputs (sameControl_putPr1 (sameControl_putPr0 same _) _))
  case peval =>
    exact .of_conclude h (.check (raises_needPolyA s) fun _ => .check (raises_checkOpa s) fun _ =>
      .outputs (sameControl_putResult0 same _))
  case pderiv => exact .of_conclude h (.check (raises_needPolyA s) fun _ => .outputs (sameControl_putPr0 same _))

theorem Ending.sameControl {i : Instr} {s t : State} (h : Ending i s t) : SameControl s t := by
  cases h with
  | outputs u hu => exact sameControl_complete _ _ hu
  | error e he => exact sameControl_complete _ _ (sameControl_startState i s)
  | uncorrectable u info hi hu => exact sameControl_complete _ _ hu

/-- The code of a completion is NONE or one of the command's. -/
theorem Ending.errcode {i : Instr} {s t : State} (h : Ending i s t) :
    t.errcode = .noError ∨ t.errcode ∈ reportedErrors i := by
  cases h with
  | outputs u hu => exact .inl rfl
  | error e he => exact .inr he
  | uncorrectable u info hi hu =>
    subst hi
    exact .inr (by decide : ErrCode.uncorrectable ∈ reportedErrors .bdec)

/-- Settles O18: the event is a completion by `exec_completes`, and what it leaves is read off `exec_ending`. -/
theorem everyCommandCompletes : Obligations.EveryCommandCompletes := by
  unfold Obligations.EveryCommandCompletes
  intro i s
  obtain ⟨c, info, u, h⟩ := exec_completes i s
  obtain ⟨hcmd, hwob, hie⟩ := (exec_ending h).sameControl
  exact ⟨_, h, rfl, rfl, bne_iff_ne, fun hc => if_pos hc, hcmd, hwob, hie⟩

/-- Settles O21: of the three endings only the error with the start state has a code and is not BDEC's exception. -/
theorem errorsWriteNoOutput : Obligations.ErrorsWriteNoOutput := by
  unfold Obligations.ErrorsWriteNoOutput
  intro i s t h hcode hbdec
  cases exec_ending h with
  | outputs u hu => exact absurd rfl hcode
  | error e he =>
    have hinfo : (raiseError e (startState i s)).errinfo = e.info := if_neg hcode
    rw [hinfo]
    rfl
  | uncorrectable u info hi hu => exact absurd ⟨hi, rfl⟩ hbdec

/-! ### The codes of each command -/

theorem codeNotValid_notMem_reportedErrors {i : Instr} (hi : i ∉ [Instr.enc, .synd, .hdec]) :
    .codeNotValid ∉ reportedErrors i := by
  revert hi
  cases i <;> decide

theorem fieldNotValid_notMem_reportedErrors {i : Instr} (hi : i ∈ [Instr.nop, .fbuild]) :
    .fieldNotValid ∉ reportedErrors i := by
  revert hi
  cases i <;> decide

/-- A command whose checks do not name a code never completes with it. -/
theorem errcode_ne_of_notMem {i : Instr} {s t : State} {c : ErrCode} (hc : c ≠ .noError) (hi : c ∉ reportedErrors i)
    (h : exec i s = .next t) : t.errcode ≠ c := by
  rintro rfl
  exact (exec_ending h).errcode.elim hc hi

/-- Over a built field or none, CBUILD completes with NONE or an error of its configuration: R205's check passes. -/
theorem exec_cbuild_errcode {s t : State} (hs : NoField s ∨ FieldOk s) (h : exec .cbuild s = .next t) :
    t.errcode = .noError ∨ t.errcode ∈ possibleErrors .cbuild := by
  rcases hcheck : checkCodeConfig s with e | ⟨⟩
  · obtain rfl := Host.Outcome.next.inj ((exec_cbuild_error hcheck).symm.trans h)
    exact .inr (raises_checkCodeConfig s e hcheck)
  · obtain ⟨hv, hc⟩ := codeConfigOk_of_check hcheck
    have hf : FieldOk s := hs.resolve_left fun hno => by rw [hno.1] at hv; cases hv
    obtain rfl := Host.Outcome.next.inj ((exec_cbuild_ok hf hc).symm.trans h)
    exact .inl rfl

/-- Settles O22: the codes that the checks name, and for CBUILD `exec_cbuild_errcode`. -/
theorem errorsOfEachCommand : Obligations.ErrorsOfEachCommand := by
  unfold Obligations.ErrorsOfEachCommand
  intro i s t hs h
  by_cases hi : i = .cbuild
  · subst hi
    exact exec_cbuild_errcode hs.field h
  · have herr := (exec_ending h).errcode
    rwa [reportedErrors, if_neg hi] at herr

/-! ### The first checks -/

section Unbuilt

variable {s : State} (hv : s.status.fvalid = false)

include hv

theorem needField_error : needField s = .error { code := .fieldNotValid, info := 0 } := by
  rw [needField, hv, Bool.not_false, failIf_true]

theorem needElement_unbuilt : needElement s = .error { code := .fieldNotValid, info := 0 } := by
  rw [needElement, needField_error hv, error_bind]

theorem needElements_unbuilt : needElements s = .error { code := .fieldNotValid, info := 0 } := by
  rw [needElements, needElement_unbuilt hv, error_bind]

theorem needCode_unbuilt : needCode s = .error { code := .fieldNotValid, info := 0 } := by
  rw [needCode, needField_error hv, error_bind]

theorem needBinary_unbuilt : needBinary s = .error { code := .fieldNotValid, info := 0 } := by
  rw [needBinary, needField_error hv, error_bind]

theorem checkCodeConfig_unbuilt : checkCodeConfig s = .error { code := .fieldNotValid, info := 0 } := by
  rw [checkCodeConfig, needField_error hv, error_bind]

/-- The check phase of every command but NOP and FBUILD begins with FVALID (R412). -/
theorem exec_unbuilt {i : Instr} (hn : i ≠ .nop) (hf : i ≠ .fbuild) :
    exec i s = .next (complete .fieldNotValid 0 (if i = .cbuild then clearCode s else s)) := by
  cases i
  case nop => exact absurd rfl hn
  case fbuild => exact absurd rfl hf
  case cbuild => exact exec_cbuild_error (checkCodeConfig_unbuilt hv)
  case fadd | fsub | fmul | fdiv => exact conclude_bind_error (needElements_unbuilt hv) _
  case fpow | finv | fi2v => exact conclude_bind_error (needElement_unbuilt hv) _
  case fv2i => exact conclude_bind_error (needField_error hv) _
  case enc | synd | hdec => exact conclude_bind_error (needCode_unbuilt hv) _
  all_goals exact exec_needBinary_error (by decide) (needBinary_unbuilt hv)

end Unbuilt

theorem needCode_error {s : State} (hv : s.status.fvalid = true) (hc : s.status.cvalid = false) :
    needCode s = .error { code := .codeNotValid, info := 0 } := by
  rw [needCode, needField_ok hv, ok_bind, hc, Bool.not_false, failIf_true]

/-- The code commands check CVALID next. -/
theorem exec_codeless {i : Instr} {s : State} (hi : i ∈ [Instr.enc, .synd, .hdec]) (hv : s.status.fvalid = true)
    (hc : s.status.cvalid = false) : exec i s = .next (complete .codeNotValid 0 s) := by
  simp only [List.mem_cons, List.not_mem_nil, or_false] at hi
  rcases hi with rfl | rfl | rfl <;> exact conclude_bind_error (needCode_error hv hc) _

/-- Settles O20: the first checks by `exec_unbuilt` and `exec_codeless`; no other command's checks name the codes. -/
theorem initializationBarrier : Obligations.InitializationBarrier := by
  unfold Obligations.InitializationBarrier
  intro i s
  exact ⟨fun hn hf hv => exec_unbuilt hv hn hf, fun hi hv hc => exec_codeless hi hv hc,
    fun hi _ h => errcode_ne_of_notMem (by decide) (codeNotValid_notMem_reportedErrors hi) h,
    fun hi _ h => errcode_ne_of_notMem (by decide) (fieldNotValid_notMem_reportedErrors hi) h⟩

/-! ### BUSY and the interrupt line -/

/-- BUSY does not fall, DONE does not rise and IE stays. -/
def Calm (s u : State) : Prop :=
  (s.status.busy = true → u.status.busy = true) ∧ (u.status.done = true → s.status.done = true) ∧ u.ie = s.ie

theorem calm_refl (s : State) : Calm s s := ⟨id, id, rfl⟩

theorem Calm.busy_not_falls {s u : State} (h : Calm s u) (hb : s.status.busy = true) : ¬ u.status.busy = false := by
  simp [h.1 hb]

theorem Calm.irq_not_rises {s u : State} (h : Calm s u) (hlow : irq s = false) : ¬ irq u = true := by
  obtain ⟨-, hdone, hie⟩ := h
  intro hirq
  obtain ⟨hd, he⟩ := Bool.and_eq_true_iff.1 hirq
  simp [irq, hdone hd, ← hie, he] at hlow

theorem OnlyResponse.calm {s u : State} (h : OnlyResponse s u) : Calm s u := by
  unfold OnlyResponse at h
  rw [h]
  exact calm_refl s

theorem calm_ackStatus (v : Word) (s : State) : Calm s (ackStatus v s) :=
  ⟨id, fun h => (Bool.and_eq_true_iff.1 h).1, rfl⟩

theorem calm_acceptCommand (w : Word) (s : State) : Calm s (acceptCommand w s) := by
  unfold acceptCommand startCommand
  rcases onStart_cases w _ with ⟨-, h⟩ | ⟨-, h⟩ | ⟨-, -, h⟩ <;> rw [h] <;> exact ⟨fun _ => rfl, nofun, rfl⟩

/-- A write in the idle core to anything but CTRL. -/
theorem calm_writeLoc (s : State) (v : Word) {l : Loc} (hl : l ≠ .reg .ctrl) : Calm s (writeLoc s v l) := by
  cases l with
  | reg r =>
    cases r
    case ctrl => exact absurd rfl hl
    case status => exact calm_ackStatus v s
    case cmd => exact calm_acceptCommand v s
    all_goals exact calm_refl s
  | vreg d => exact calm_refl s
  | poly i => exact calm_refl s
  | window w i =>
    show Calm s (if hostWritable w then setWinWord s w i v else s)
    split <;> exact calm_refl s
  | reserved => exact calm_refl s

/-- A legal write to anything but CTRL, busy or idle. -/
theorem calm_busWrite (s : State) (v : Word) {l : Loc} (hl : l ≠ .reg .ctrl) : Calm s (busWrite s l v) := by
  by_cases ht : l = .reg .status
  · rw [ht, busWrite_status]
    exact calm_ackStatus v s
  cases hb : s.status.busy with
  | true =>
    rw [busWrite_lost hb hl ht]
    exact calm_refl s
  | false =>
    rw [busWrite_idle hb]
    exact calm_writeLoc s v hl

theorem calm_pollStatus (s : State) : Calm s (pollStatus s) := by
  have hread := (busRead_onlyResponse s (.reg .status)).calm
  unfold pollStatus
  split
  · exact calm_refl s
  · split <;> exact hread

/-- A write that answers a next state is calm, or it is the legal write of CTRL. -/
theorem memWrite_calm_or_ctrl {s t : State} {addr width : Nat} {v : Word} (h : memWrite s addr width v = .next t) :
    Calm s t ∨
      (s.rstN = true ∧ addr = s.params.base + 0x004 ∧ width = 4 ∧ t = { writeCtrl s v with resp := .written }) := by
  unfold memWrite at h
  split at h
  case isFalse => cases h
  rename_i hregion
  split at h
  · obtain rfl := Host.Outcome.next.inj h
    exact .inl (calm_refl s)
  rename_i hr
  split at h
  case isFalse =>
    obtain rfl := Host.Outcome.next.inj h
    exact .inl (calm_refl s)
  rename_i hlegal
  obtain rfl := Host.Outcome.next.inj h
  by_cases hl : locate s.params (addr - s.params.base) = .reg .ctrl
  · have hoff := (offset_of_ctrl_status _ (mem_regTable_of_locate hl)).1 rfl
    simp only at hoff
    have hwidth : width = 4 := beq_iff_eq.1 (Bool.and_eq_true_iff.1 hlegal).1
    rw [hl, busWrite_ctrl]
    exact .inr ⟨by simpa using hr, by omega, hwidth, rfl⟩
  · exact .inl (calm_busWrite s v hl)

/-- The host's steps: calm, the write of CTRL, or the fall of rst_n. -/
theorem hostStep_calm_or_ctrl_or_reset {s t : State} {a : BusStep} (h : hostStep s a = .next t) :
    Calm s t ∨
      (s.rstN = true ∧ ∃ v, a = .write (s.params.base + 0x004) 4 v ∧ t = { writeCtrl s v with resp := .written }) ∨
      (a = .resetLow ∧ t = hardReset s) := by
  cases a with
  | read addr width => exact .inl (memRead_onlyResponse h).calm
  | write addr width v =>
    rcases memWrite_calm_or_ctrl h with hcalm | ⟨hr, rfl, rfl, ht⟩
    · exact .inl hcalm
    · exact .inr (.inl ⟨hr, v, rfl, ht⟩)
  | wait =>
    obtain rfl := Host.Outcome.next.inj h
    exact .inl (calm_pollStatus s)
  | resetLow =>
    obtain rfl := Host.Outcome.next.inj h
    unfold assertReset
    split
    · exact .inr (.inr ⟨rfl, rfl⟩)
    · exact .inl (calm_refl s)
  | resetHigh =>
    obtain rfl := Host.Outcome.next.inj h
    exact .inl (calm_refl s)

/-- A completion clears BUSY and leaves IE, whatever the word in CMD. -/
theorem runCommand_idle_ie {s t : State} (h : runCommand s = .next t) : t.status.busy = false ∧ t.ie = s.ie := by
  unfold runCommand at h
  split at h
  · rename_i i _
    obtain ⟨c, info, u, hu⟩ := exec_completes i s
    obtain ⟨-, -, hie⟩ := (exec_ending h).sameControl
    obtain rfl := Host.Outcome.next.inj (hu.symm.trans h)
    exact ⟨rfl, hie⟩
  · obtain rfl := Host.Outcome.next.inj h
    exact ⟨rfl, rfl⟩

theorem irq_softReset (s : State) : irq (softReset s) = false := (softReset_atResetValues s).idle.2

theorem irq_hardReset (s : State) : irq (hardReset s) = false := (hardReset_atResetValues s).idle.2

/-- Settles O19: of all steps only a due completion, a write of CTRL and the fall of rst_n are not calm. -/
theorem busyFallsInterruptRises : Obligations.BusyFallsInterruptRises := by
  unfold Obligations.BusyFallsInterruptRises
  intro s t h
  rcases step_cases h with ⟨hd, hrun⟩ | ⟨-, -, rfl⟩ | ⟨a, rest, -, hs, hstep⟩
  · obtain ⟨hidle, hie⟩ := runCommand_idle_ie hrun
    exact ⟨fun _ _ => .inl hd, fun _ hirq => .inl ⟨hd, hie ▸ (Bool.and_eq_true_iff.1 hirq).2, hidle⟩⟩
  · exact ⟨fun hb hb' => absurd hb' ((calm_refl t).busy_not_falls hb),
      fun hlow hirq => absurd hirq ((calm_refl t).irq_not_rises hlow)⟩
  rcases hostStep_calm_or_ctrl_or_reset hstep with hcalm | ⟨hr, v, rfl, ht⟩ | ⟨rfl, rfl⟩
  · exact ⟨fun hb hb' => absurd hb' (hcalm.busy_not_falls hb), fun hlow hirq => absurd hirq (hcalm.irq_not_rises hlow)⟩
  · have hw : WriteNext s 0x004 v rest := ⟨hr, hs⟩
    cases hv : v.getLsbD 1 with
    | true =>
      have hlow : irq t = false := by
        rw [ht, writeCtrl, if_pos hv]
        exact irq_softReset (served s rest)
      exact ⟨fun _ _ => .inr (.inl ⟨v, rest, hw, hv⟩), fun _ hirq => absurd hirq (Bool.eq_false_iff.1 hlow)⟩
    | false =>
      have hie : t = { served s rest with ie := v.getLsbD 0, resp := .written } := by
        rw [ht, writeCtrl, if_neg (Bool.eq_false_iff.1 hv)]
      subst hie
      refine ⟨fun hb hb' => absurd (hb.symm.trans hb') Bool.noConfusion, fun _ hirq => .inr ?_⟩
      obtain ⟨hdone, hie⟩ := Bool.and_eq_true_iff.1 hirq
      exact ⟨hdone, v, rest, hw, hie, hv⟩
  · exact ⟨fun _ _ => .inr (.inr ⟨rest, hs⟩), fun _ hirq => absurd hirq (Bool.eq_false_iff.1 (irq_hardReset _))⟩

/-! ### The step that runs a command -/

theorem runCommand_decoded {s : State} {i : Instr} (h : decode s.cmd = .ok i) : runCommand s = exec i s := by
  rw [runCommand, h]

/-- Settles O4: the due completion runs the word in CMD, and the word is the command's. -/
theorem stepRunsCommand : Obligations.StepRunsCommand := by
  unfold Obligations.StepRunsCommand
  intro s i hbusy hdue hdecode
  rw [step_completion (completionDue_iff.2 ⟨hbusy, hdue⟩), runCommand_decoded hdecode]

end Sys2Proof.Machine
end

section
/-! PROOFS. The resets (spec/70_reset_and_hazards.md R450 to R452): one equation per edge of rst_n, for a write of
CTRL.SRST and for WAIT while rst_n = 0. From them and from `softReset_atResetValues` and `hardReset_atResetValues`: the
soft reset (O10), the hardware reset (O11) and the invariant of the reset state (O23). -/

namespace Sys2Proof.Machine

open Sys2Proof

/-! ### The reset state -/

theorem reset_atResetValues : AtResetValues State.reset := softReset_atResetValues State.reset

/-- Settles O23: nothing is built in the reset state, and the reference parameters are legal. -/
theorem invAtReset : Obligations.InvAtReset :=
  inv_of_released (u := State.reset) rfl (by decide) Memory.wf_nil
    ⟨.inl reset_atResetValues.unbuilt.1, .inl reset_atResetValues.unbuilt.2⟩ ⟨nofun, fun _ => rfl, nofun⟩

/-! ### Soft reset -/

/-- A write of CTRL.SRST is a soft reset, busy or not. -/
theorem step_write_srst {s : State} {v : Word} {rest : List BusStep} (hd : completionDue s = false)
    (hv : v.getLsbD 1 = true) (hw : WriteNext s 0x004 v rest) :
    step s = .next { softReset (served s rest) with resp := .written } := by
  rw [step_write hd (by omega) (by omega) hw, locate_of_mem_regTable _ (r := .ctrl) (by decide), busWrite_ctrl,
    writeCtrl, if_pos hv]

/-- Settles O10: the write is a soft reset, which sets the reset values and keeps the window memory and its epoch.
`softReset` alone is the model's own function. -/
theorem softResetByCtrl : Obligations.SoftReset := by
  unfold Obligations.SoftReset
  intro s v rest hd hw hv
  obtain ⟨registers, ⟨hvreg, hpoly⟩, ⟨hfield, hcode⟩, hbusy, hirq⟩ :=
    (softReset_atResetValues (served s rest)).of_sameCore (u := { softReset (served s rest) with resp := .written }) rfl
  exact ⟨_, step_write_srst hd hv hw, rfl, rfl, rfl, registers, hvreg, hpoly, hfield, hcode, hbusy, hirq,
    fun _ => rfl⟩

/-! ### The edges of rst_n -/

theorem step_resetLow_falls {s : State} {rest : List BusStep} (hd : completionDue s = false) (hr : s.rstN = true)
    (hs : s.host = .resetLow :: rest) : step s = .next (hardReset (served s rest)) := by
  rw [step_host hs hd, hostStep, assertReset, if_pos (show (served s rest).rstN = true from hr)]

theorem step_resetLow_held {s : State} {rest : List BusStep} (hd : completionDue s = false) (hr : s.rstN = false)
    (hs : s.host = .resetLow :: rest) : step s = .next (served s rest) := by
  rw [step_host hs hd, hostStep, assertReset,
    if_neg (show (served s rest).rstN ≠ true from Bool.eq_false_iff.1 hr)]

theorem step_resetHigh {s : State} {rest : List BusStep} (hd : completionDue s = false)
    (hs : s.host = .resetHigh :: rest) : step s = .next { served s rest with rstN := true } := by
  rw [step_host hs hd, hostStep, releaseReset]

/-! ### WAIT while rst_n = 0 -/

theorem isResetEdge_of_eq {h : BusStep} (he : h = .resetLow ∨ h = .resetHigh) : isResetEdge h = true := by
  rcases he with rfl | rfl <;> rfl

theorem isResetEdge_eq_false {h : BusStep} (he : h ≠ .resetLow ∧ h ≠ .resetHigh) : isResetEdge h = false := by
  cases h with
  | read | write | wait => rfl
  | resetLow => exact absurd rfl he.1
  | resetHigh => exact absurd rfl he.2

theorem waitThroughReset_no_edge {rest : List BusStep} (h : ∀ a ∈ rest, isResetEdge a = false) :
    waitThroughReset rest = .wait :: rest := by
  have hfind : rest.find? isResetEdge = none := List.find?_eq_none.2 fun a ha => Bool.eq_false_iff.1 (h a ha)
  rw [waitThroughReset, hfind]

theorem waitThroughReset_first_edge {before others : List BusStep} {edge : BusStep} (he : isResetEdge edge = true)
    (hb : ∀ a ∈ before, isResetEdge a = false) :
    waitThroughReset (before ++ edge :: others) = edge :: .wait :: (before ++ others) := by
  have hfind : (before ++ edge :: others).find? isResetEdge = some edge :=
    List.find?_eq_some_iff_append.2 ⟨he, before, others, rfl, fun a ha => by rw [hb a ha]; rfl⟩
  have hmem : edge ∉ before := fun h => Bool.eq_false_iff.1 (hb edge h) he
  rw [waitThroughReset, hfind]
  simp only [List.erase_append_right _ hmem, List.erase_cons_head]

/-- WAIT gets no answer, and the next edge of rst_n passes it (log entry 16). -/
theorem step_wait_held {s : State} {rest : List BusStep} (hd : completionDue s = false) (hr : s.rstN = false)
    (hs : s.host = .wait :: rest) :
    step s = .next { served s (waitThroughReset rest) with resp := .unanswered } := by
  have hn : (served s rest).rstN = false := hr
  rw [step_host hs hd, hostStep, pollStatus, hn]
  rfl

/-- Settles O11: the fall is `hardReset`; while rst_n = 0 each kind of host step has its own equation. -/
theorem hardwareReset : Obligations.HardwareReset := by
  unfold Obligations.HardwareReset
  refine ⟨fun s rest hd hr hs => ?_, fun s rest hb hr => ?_, reset_atResetValues, rfl⟩
  · exact ⟨_, step_resetLow_falls hd hr hs, rfl, rfl, rfl, hardReset_atResetValues _⟩
  have hd := not_completionDue_of_idle hb
  refine ⟨fun off width v ho hs => ?_, fun hs => ⟨fun hrest => ?_, ?_⟩, step_resetLow_held hd hr,
    step_resetHigh hd⟩
  · rcases hs with hs | hs
    · exact step_unanswered (width := width) (v := v) hd hr ho hs (.inl rfl)
    · exact step_unanswered hd hr ho hs (.inr rfl)
  · rw [step_wait_held hd hr hs, waitThroughReset_no_edge fun a ha => isResetEdge_eq_false (hrest a ha)]
  · rintro before edge others rfl hedge hbefore
    rw [step_wait_held hd hr hs, waitThroughReset_first_edge (isResetEdge_of_eq hedge) fun a ha =>
      isResetEdge_eq_false (hbefore a ha)]

end Sys2Proof.Machine
end
